-- ==== Sys2Proof/Word.lean ====
section
/-! DEFINITION. Word types of the block: 32-bit words and the narrower fields of 10_state.md. -/

namespace Sys2Proof

/-- A 32-bit word of the bus, of a command or of an event record (00_scope.md R1). -/
abbrev Word := BitVec 32

/-- A non-negative 16.16 value or a bounded count held in bits [30:0]; bit 31 is hardwired to 0
(00_scope.md R2). -/
abbrev NonNeg := BitVec 31

/-- An unsigned 16.16 duty held in bits [16:0] (10_state.md R35). -/
abbrev Duty := BitVec 17

/-- A phase mask: two bits for each phase (43_commutation.md R190). -/
abbrev Mask := BitVec 6

end Sys2Proof
end

