-- ==== Sys2Proof/Syntax.lean ====
section
/-! DEFINITION. The operations of the block: one constructor for every row of spec/opcode_table.json. -/

namespace Sys2Proof

/-- The three operation formats (30_encoding.md section 1): they arrive on three different ports. -/
inductive Format where
  /-- format C, a word the host writes to `CMD` -/
  | command
  /-- format E, a record on an event input -/
  | event
  /-- format B, a host bus access -/
  | access
  deriving DecidableEq, Repr

/-- One operation of the block (10_state.md R21). `n` and `k` are the 4-bit IDX field of a command
(30_encoding.md R100), payload words are the raw words of an event record (R104), `o` is the byte
offset and `size` the width in bytes of a host access (20_memory.md R81, R82). -/
inductive Instr where
  /-- NOP, 40_dispatch.md R120 -/
  | nop
  /-- PI_STEP, 41_pi.md R141 -/
  | piStep (n : BitVec 4)
  /-- PI_RESET, 41_pi.md R142 -/
  | piReset (n : BitVec 4)
  /-- PI_SEED, 41_pi.md R143 -/
  | piSeed (n : BitVec 4)
  /-- ANG_RESET, 42_waveform.md R160 -/
  | angReset
  /-- ANG_SETFREQ, 42_waveform.md R162 -/
  | angSetfreq
  /-- WAVE_UPDATE, 42_waveform.md R173 -/
  | waveUpdate
  /-- CMT_HALL, 43_commutation.md R199 -/
  | cmtHall
  /-- CMT_STEPSET, 43_commutation.md R200 -/
  | cmtStepset (k : BitVec 4)
  /-- CMT_STEPADV, 43_commutation.md R201 -/
  | cmtStepadv
  /-- ZC_RESET, 45_bemf.md R232 -/
  | zcReset
  /-- SPD_RESET, 44_speed.md R215 -/
  | spdReset
  /-- CUR_RESET, 46_current.md R256 -/
  | curReset
  /-- FAULT_CLEAR, 47_fault_monitor.md R285 -/
  | faultClear
  /-- ESTOP, 47_fault_monitor.md R284 -/
  | estop
  /-- OUT_ON, 47_fault_monitor.md R286 -/
  | outOn
  /-- OUT_OFF, 47_fault_monitor.md R288 -/
  | outOff
  /-- RUN_ENTER, 47_fault_monitor.md R289 -/
  | runEnter
  /-- RUN_EXIT, 47_fault_monitor.md R290 -/
  | runExit
  /-- EV_PWM, 42_waveform.md R164 -/
  | evPwm (c : Word)
  /-- EV_ADC, 46_current.md R250 -/
  | evAdc (ic : BitVec 16) (vbemf vb tp ts : Word)
  /-- EV_HALL, 43_commutation.md R195 -/
  | evHall (h : BitVec 3) (ts : Word)
  /-- EV_CMT, 43_commutation.md R198 -/
  | evCmt
  /-- EV_TICK, 47_fault_monitor.md R280 -/
  | evTick
  /-- EV_WDOG, 47_fault_monitor.md R287 -/
  | evWdog
  /-- EV_ADCERR, 46_current.md R257 -/
  | evAdcerr
  /-- REG_READ, 40_dispatch.md R121 -/
  | regRead (o : BitVec 10) (size : Nat)
  /-- REG_WRITE, 40_dispatch.md R122 -/
  | regWrite (o : BitVec 10) (size : Nat) (v : Word)
  deriving DecidableEq, Repr

/-- The format of an operation (the column "format" of spec/opcode_table.json). -/
def Instr.format : Instr → Format
  | .nop | .piStep _ | .piReset _ | .piSeed _ | .angReset | .angSetfreq | .waveUpdate
  | .cmtHall | .cmtStepset _ | .cmtStepadv | .zcReset | .spdReset | .curReset
  | .faultClear | .estop | .outOn | .outOff | .runEnter | .runExit => .command
  | .evPwm _ | .evAdc _ _ _ _ _ | .evHall _ _ | .evCmt | .evTick | .evWdog | .evAdcerr => .event
  | .regRead _ _ | .regWrite _ _ _ => .access

end Sys2Proof
end

