-- ==== Sys2Proof/WellFormed.lean ====
section
/-! DEFINITION. Which operations the spec calls legal: IDX in its range, `C` at least 1, 32-bit accesses. -/

namespace Sys2Proof

/-- The IDX of the PI commands is a PI instance (30_encoding.md R102). -/
def piIdxLegal (n : BitVec 4) : Bool := n.toNat < 2

/-- The IDX of `CMT_STEPSET` is a step (30_encoding.md R102). -/
def stepIdxLegal (k : BitVec 4) : Bool := k.toNat < 6

/-- Legality of an operation's operands: R102 for IDX, R105 for `C`, and for a host access the one
size a format-B descriptor can spell (R107); an access of another size is a bad access
(20_memory.md R82), which has its meaning all the same. -/
def Instr.wellFormed : Instr → Bool
  | .piStep n | .piReset n | .piSeed n => piIdxLegal n
  | .cmtStepset k => stepIdxLegal k
  | .evPwm c => c != 0
  | .regRead _ size | .regWrite _ size _ => size == 4
  | .nop | .angReset | .angSetfreq | .waveUpdate | .cmtHall | .cmtStepadv | .zcReset
  | .spdReset | .curReset | .faultClear | .estop | .outOn | .outOff | .runEnter | .runExit
  | .evAdc _ _ _ _ _ | .evHall _ _ | .evCmt | .evTick | .evWdog | .evAdcerr => true

end Sys2Proof
end

