-- ==== Sys2Proof/Decode.lean ====
section
/-! DEFINITION. Decoding of the words of the three ports, total and rejecting by name, and the
encoder written from the same tables (30_encoding.md). -/

namespace Sys2Proof

/-- Why a list of words is no operation of a port. -/
inductive DecodeError where
  /-- a command word that no row of R103 accepts (30_encoding.md R106) -/
  | illegalCommand
  /-- an event record with an unknown CODE, with a nonzero bit outside its fields, or too short
  (30_encoding.md R105) -/
  | malformedEvent
  /-- a descriptor with a nonzero bit in [30:10], or a write without its data word
  (30_encoding.md R107) -/
  | malformedAccess
  deriving DecidableEq, Repr

/-- The field of `n` bits of `w` from bit `lo` up (00_scope.md R1). -/
def field (lo n : Nat) (w : Word) : BitVec n := w.extractLsb' lo n

/-- Rows of R103 whose IDX must be 0 (30_encoding.md R102). -/
def plainCommand (idx : BitVec 4) (i : Instr) : Except DecodeError Instr :=
  if idx = 0 then .ok i else .error .illegalCommand

/-- The command a word selects (30_encoding.md R100, R103). For the rows whose IDX has a range the
decoder reads the field and `Instr.wellFormed` says whether it is legal. -/
def decodeCommand (w : Word) : Except DecodeError Instr :=
  if field 12 20 w = 0 then
    match (field 0 8 w).toNat with
    | 0x00 => plainCommand (field 8 4 w) .nop
    | 0x01 => .ok (.piStep (field 8 4 w))
    | 0x02 => .ok (.piReset (field 8 4 w))
    | 0x03 => .ok (.piSeed (field 8 4 w))
    | 0x10 => plainCommand (field 8 4 w) .angReset
    | 0x11 => plainCommand (field 8 4 w) .angSetfreq
    | 0x12 => plainCommand (field 8 4 w) .waveUpdate
    | 0x20 => plainCommand (field 8 4 w) .cmtHall
    | 0x21 => .ok (.cmtStepset (field 8 4 w))
    | 0x22 => plainCommand (field 8 4 w) .cmtStepadv
    | 0x23 => plainCommand (field 8 4 w) .zcReset
    | 0x30 => plainCommand (field 8 4 w) .spdReset
    | 0x31 => plainCommand (field 8 4 w) .curReset
    | 0x40 => plainCommand (field 8 4 w) .faultClear
    | 0x41 => plainCommand (field 8 4 w) .estop
    | 0x42 => plainCommand (field 8 4 w) .outOn
    | 0x43 => plainCommand (field 8 4 w) .outOff
    | 0x44 => plainCommand (field 8 4 w) .runEnter
    | 0x45 => plainCommand (field 8 4 w) .runExit
    | _ => .error .illegalCommand
  else .error .illegalCommand

/-- The event a record carries and the words after it: the length follows from CODE alone
(30_encoding.md R104), and every header bit outside the fields is 0 (R105). -/
def decodeEvent : List Word → Except DecodeError (Instr × List Word)
  | [] => .error .malformedEvent
  | h :: payload =>
    match (field 0 16 h).toNat, payload with
    | 0x00E0, c :: rest =>
      if field 16 16 h = 0 then .ok (.evPwm c, rest) else .error .malformedEvent
    | 0x00E1, vbemf :: vb :: tp :: ts :: rest =>
      .ok (.evAdc (field 16 16 h) vbemf vb tp ts, rest)
    | 0x00E2, ts :: rest =>
      if field 19 13 h = 0 then .ok (.evHall (field 16 3 h) ts, rest) else .error .malformedEvent
    | 0x00E3, rest => if field 16 16 h = 0 then .ok (.evCmt, rest) else .error .malformedEvent
    | 0x00E4, rest => if field 16 16 h = 0 then .ok (.evTick, rest) else .error .malformedEvent
    | 0x00E5, rest => if field 16 16 h = 0 then .ok (.evWdog, rest) else .error .malformedEvent
    | 0x00E6, rest => if field 16 16 h = 0 then .ok (.evAdcerr, rest) else .error .malformedEvent
    | _, _ => .error .malformedEvent

/-- The host access a format-B descriptor spells, with the data word of a write
(30_encoding.md R107). -/
def decodeAccess : List Word → Except DecodeError (Instr × List Word)
  | [] => .error .malformedAccess
  | d :: rest =>
    if field 10 21 d = 0 then
      if field 31 1 d = 0 then .ok (.regRead (field 0 10 d) 4, rest)
      else
        match rest with
        | v :: rest' => .ok (.regWrite (field 0 10 d) 4 v, rest')
        | [] => .error .malformedAccess
    else .error .malformedAccess

/-- The operation that the words of a port begin with, and the words after it. -/
def decode (f : Format) (ws : List Word) : Except DecodeError (Instr × List Word) :=
  match f with
  | .command =>
    match ws with
    | [] => .error .illegalCommand
    | w :: rest =>
      match decodeCommand w with
      | .ok i => .ok (i, rest)
      | .error e => .error e
  | .event => decodeEvent ws
  | .access => decodeAccess ws

/-- A command word from its OP and IDX; RSV is 0 (30_encoding.md R100). -/
def commandWord (op : BitVec 8) (idx : BitVec 4) : Word := (0#20 ++ idx ++ op : BitVec (20 + 4 + 8))

/-- An event header from its field above bit 16 and its CODE (30_encoding.md R104). -/
def eventHeader (hi : BitVec 16) (code : BitVec 8) : Word := (hi ++ 0#8 ++ code : BitVec (16 + 8 + 8))

/-- A format-B descriptor (30_encoding.md R107). -/
def accessWord (we : BitVec 1) (o : BitVec 10) : Word := (we ++ 0#21 ++ o : BitVec (1 + 21 + 10))

/-- The words of an operation (30_encoding.md R103, R104, R107). A host access of another size than
32 bits has no descriptor of its own and is spelt as the 32-bit one. -/
def encode : Instr → List Word
  | .nop => [commandWord 0x00 0]
  | .piStep n => [commandWord 0x01 n]
  | .piReset n => [commandWord 0x02 n]
  | .piSeed n => [commandWord 0x03 n]
  | .angReset => [commandWord 0x10 0]
  | .angSetfreq => [commandWord 0x11 0]
  | .waveUpdate => [commandWord 0x12 0]
  | .cmtHall => [commandWord 0x20 0]
  | .cmtStepset k => [commandWord 0x21 k]
  | .cmtStepadv => [commandWord 0x22 0]
  | .zcReset => [commandWord 0x23 0]
  | .spdReset => [commandWord 0x30 0]
  | .curReset => [commandWord 0x31 0]
  | .faultClear => [commandWord 0x40 0]
  | .estop => [commandWord 0x41 0]
  | .outOn => [commandWord 0x42 0]
  | .outOff => [commandWord 0x43 0]
  | .runEnter => [commandWord 0x44 0]
  | .runExit => [commandWord 0x45 0]
  | .evPwm c => [eventHeader 0 0xE0, c]
  | .evAdc ic vbemf vb tp ts => [eventHeader ic 0xE1, vbemf, vb, tp, ts]
  | .evHall h ts => [eventHeader (0#13 ++ h : BitVec (13 + 3)) 0xE2, ts]
  | .evCmt => [eventHeader 0 0xE3]
  | .evTick => [eventHeader 0 0xE4]
  | .evWdog => [eventHeader 0 0xE5]
  | .evAdcerr => [eventHeader 0 0xE6]
  | .regRead o _ => [accessWord 0 o]
  | .regWrite o _ v => [accessWord 1 o, v]

/-- The longest operation has five words (`EV_ADC`). -/
def maxWords : Nat := 5

/-- The words of an operation whose bits are `w`, numbered as spec/opcode_table.json numbers them:
every bit above `nbits` is 0. -/
def tableWords (nbits w : Nat) : List Word :=
  (List.range maxWords).map fun k => BitVec.ofNat 32 ((w % 2 ^ nbits) >>> (32 * k))

/-- The first port that accepts a list of words, in the order command, event, access. The words of
the three formats overlap (0x00000000 is `NOP` and a read of offset 0), and a table row does not
name its port: this order is a DESIGN CHOICE (log 6). -/
def tableDecode (ws : List Word) : Option (Format × Instr) :=
  match decode .command ws with
  | .ok (i, _) => some (.command, i)
  | .error _ =>
    match decode .event ws with
    | .ok (i, _) => some (.event, i)
    | .error _ =>
      match decode .access ws with
      | .ok (i, _) => some (.access, i)
      | .error _ => none

/-- The operation the decoder reads from an operation whose bits are `w`. -/
def decodeTableWord (nbits w : Nat) : Option Instr :=
  (tableDecode (tableWords nbits w)).map Prod.snd

end Sys2Proof
end

