-- ==== Sys2Proof/Config.lean ====
section
/-! DEFINITION. What an implementation or the platform fixes: identity, window base, table sizes. -/

namespace Sys2Proof

/-- The OPEN parameter `MCCORE_BASE`, divided by 0x400 (20_memory.md R80): the platform chooses it,
so it has no value here. That host addresses are 32 bits wide, and this index therefore 22, is the
model's choice: the spec gives no width (DESIGN CHOICE, log 12). -/
opaque Config.windowIndex : BitVec 22

/-- `MCCORE_BASE`, a multiple of 0x400 (20_memory.md R80), as a 32-bit host address
(DESIGN CHOICE, log 12). -/
def Config.mccoreBase : Word := Config.windowIndex ++ (0#10)

/-- The host's address of the byte at offset `o` of the window (20_memory.md R80); the address width
of 32 bits is the model's (DESIGN CHOICE, log 12). -/
def Config.busAddress (o : BitVec 10) : Word := Config.mccoreBase + o.zeroExtend 32

/-- `ID` always reads this: ASCII "MC", version 0.1 (10_state.md R22). -/
def Config.idValue : Word := 0x4D430001#32

/-- Entries of the sine table over one revolution (00_scope.md section 4). -/
def Config.sinN : Nat := 384

end Sys2Proof
end

