-- ==== Sys2Proof/Machine/State.lean ====
section
/-! DEFINITION. The block's state as plain data: every register, hidden bit and pending latch of
10_state.md, the host port, the reset input and the environment's script; and its reset value. -/

namespace Sys2Proof.Machine

/-- `CTRL.MODE` (10_state.md R23). -/
inductive Mode where
  | sine
  | svpwm
  | trapHall
  | trapBemf
  deriving DecidableEq, Repr

/-- `CTRL.PHCFG` (10_state.md R23); 3 is reserved and never held. -/
inductive PhCfg where
  | one
  | bridge
  | three
  deriving DecidableEq, Repr

/-- The fields of `CTRL` (10_state.md R23). -/
structure Ctrl where
  mode : Mode
  phcfg : PhCfg
  dir : Bool
  hall60 : Bool
  buscomp : Bool
  updrate : BitVec 8
  deriving DecidableEq, Repr

/-- One PI instance (10_state.md R31). -/
structure PiRegs where
  kp : NonNeg
  ki : NonNeg
  outmax : NonNeg
  errin : Word
  integ : NonNeg
  imax : NonNeg
  out : NonNeg
  deriving DecidableEq, Repr

/-- Angle integrator, amplitude and duties (10_state.md R33 to R35). -/
structure WaveRegs where
  angle : Word
  adelta : Word
  freq : Word
  pwmfreq : Word
  pcnt : Word
  amp : NonNeg
  vnom : NonNeg
  vfloor : NonNeg
  ampcap : NonNeg
  ampeff : NonNeg
  dutyA : Duty
  dutyB : Duty
  dutyC : Duty
  deriving DecidableEq, Repr

/-- Commutation tables and state (10_state.md R36 to R39). An entry of `stab` holds MASK in [5:0],
FLT in [7:6] and EDGE in [8]. -/
structure CmtRegs where
  htab120 : Vector Mask 8
  htab60 : Vector Mask 8
  stab : Vector (BitVec 9) 12
  hall : BitVec 3
  cstep : Fin 6
  floatph : BitVec 2
  phmask : Mask
  deriving DecidableEq, Repr

/-- BEMF zero-crossing detector (10_state.md R40, R41). -/
structure ZcRegs where
  skiprst : BitVec 16
  skipcnt : BitVec 16
  latency : Word
  pwmper : Word
  avgper : Word
  lastzc : Word
  cmtdly : Word
  zcdone : Bool
  zcvalid : Bool
  deriving DecidableEq, Repr

/-- Edge-time speed estimator (10_state.md R42, R43). -/
structure SpeedRegs where
  sysclk : Word
  polepairs : BitVec 8
  maxspeed : Word
  mspeed : Word
  lastedge : Word
  spdsamp : Word
  spdtmo : BitVec 16
  edgeage : BitVec 16
  skip : Bool
  seed : Bool
  deriving DecidableEq, Repr

/-- Current filter, power and measurement latches (10_state.md R44, R45). -/
structure CurRegs where
  calgain : NonNeg
  calofs : Word
  pkacc : BitVec 16
  ipeak : NonNeg
  iavg : NonNeg
  rmsk : NonNeg
  irms : Word
  pwrscale : NonNeg
  power : Word
  vbus : NonNeg
  temp : Word
  deriving DecidableEq, Repr

/-- Fault monitor and the two hidden control bits it gates (10_state.md R27, R46, R47). -/
structure MonRegs where
  tmax : Word
  vmin : NonNeg
  vmax : NonNeg
  iminl : NonNeg
  imaxl : NonNeg
  minspeed : Word
  stallth : BitVec 16
  stallcnt : BitVec 16
  wdflag : Bool
  outen : Bool
  runst : Bool
  deriving DecidableEq, Repr

/-- The payload of a pending `EV_ADC` (30_encoding.md R104). -/
structure AdcBatch where
  ic : BitVec 16
  vbemf : Word
  vb : Word
  tp : Word
  ts : Word
  deriving DecidableEq, Repr

/-- The payload of a pending `EV_HALL` (30_encoding.md R104). -/
structure HallEdge where
  h : BitVec 3
  ts : Word
  deriving DecidableEq, Repr

/-- The event-pending state (10_state.md R50). `adcErrFirst` is the arrival order that the arbiter
needs when `EV_ADC` and `EV_ADCERR` are both pending (20_memory.md R91, log 3). -/
structure Pending where
  pwm : Word
  adc : Option AdcBatch
  hall : Option HallEdge
  cmt : Bool
  tick : Bool
  wdog : Bool
  adcErr : Bool
  adcErrFirst : Bool
  deriving DecidableEq, Repr

/-- A host access as it stands on the bus (20_memory.md R81, R82): a read or a write of `size` bytes
at byte offset `offset` of the window. -/
structure Access where
  write : Bool
  offset : BitVec 10
  size : Nat
  data : Word
  deriving DecidableEq, Repr

/-- What can arrive at the block's ports (10_state.md R61). -/
inductive Input where
  /-- a record on an event input: header and payload words (30_encoding.md R104) -/
  | event (record : List Word)
  /-- the host presents an access of `size` bytes, spelt by its descriptor words (R107) -/
  | bus (words : List Word) (size : Nat)
  /-- the reset input is asserted (70_reset_and_hazards.md R320) -/
  | resetAssert
  /-- the reset input is released -/
  | resetRelease
  deriving DecidableEq, Repr

/-- The state of the block. The last three fields are the model's own: the script of inputs and what
the last operation drove (log 1, log 4). -/
structure State where
  ctrl : Ctrl
  err : BitVec 8
  fault : BitVec 8
  irqen : BitVec 5
  irqst : BitVec 5
  arg : Word
  pi0 : PiRegs
  pi1 : PiRegs
  wave : WaveRegs
  cmt : CmtRegs
  zc : ZcRegs
  spd : SpeedRegs
  cur : CurRegs
  mon : MonRegs
  pend : Pending
  /-- accesses the host has issued and the block has not performed, oldest first (20_memory.md R90) -/
  hostq : List Access
  /-- the reset input is asserted (70_reset_and_hazards.md R320) -/
  inReset : Bool
  /-- for each coming step, the inputs that arrive before its operation (log 1) -/
  inputs : List (List Input)
  /-- the word the last operation returned to the host, if it was a read (20_memory.md R84) -/
  busData : Option Word
  /-- the `CMTARM` strobe of the last operation with the delay it carries (10_state.md R60) -/
  cmtarm : Option Word
  deriving DecidableEq, Repr

/-- The block raises no exception and no operation stops it (60_exceptions.md R300): there is no
fault. -/
inductive Fault where
  deriving DecidableEq, Repr

/-- Why the model gives an input no meaning. -/
inductive Refusal where
  /-- raised by exec for an operation without a meaning, of which there is none; safe -/
  | notModelled (mnemonic : String)
  /-- raised by an arrival or by `EV_PWM` with C = 0: a malformed event record, which the environment
  never presents and a model refuses (30_encoding.md R105); safe -/
  | malformedEvent
  /-- raised by an arrival: words that are no format-B descriptor (30_encoding.md R107), so no bus
  cycle; safe -/
  | malformedAccess
  deriving DecidableEq, Repr

/-- A PI instance after reset: `IMAX` is what R144 gives for `KI = 0` (10_state.md R31). -/
def PiRegs.reset : PiRegs :=
  { kp := 0, ki := 0, outmax := 0, errin := 0, integ := 0, imax := 0x7FFFFFFF#31, out := 0 }

/-- Empty latches and no PWM period pending (10_state.md R50). -/
def Pending.empty : Pending :=
  { pwm := 0, adc := none, hall := none, cmt := false, tick := false, wdog := false,
    adcErr := false, adcErrFirst := false }

/-- The block right after its reset input is released (70_reset_and_hazards.md R320 and the reset
columns of 10_state.md), with nothing arriving. -/
def State.reset : State :=
  { ctrl := { mode := .sine, phcfg := .three, dir := false, hall60 := false, buscomp := false,
              updrate := 0 }
    err := 0
    fault := 0
    irqen := 0
    irqst := 0
    arg := 0
    pi0 := PiRegs.reset
    pi1 := PiRegs.reset
    wave := { angle := 0, adelta := 0, freq := 0, pwmfreq := 0, pcnt := 0, amp := 0, vnom := 0,
              vfloor := 0, ampcap := 0x00014000#31, ampeff := 0, dutyA := 0, dutyB := 0,
              dutyC := 0 }
    cmt := { htab120 := Vector.replicate 8 0, htab60 := Vector.replicate 8 0,
             stab := Vector.replicate 12 0, hall := 0, cstep := 0, floatph := 3, phmask := 0 }
    zc := { skiprst := 0, skipcnt := 0, latency := 0, pwmper := 0, avgper := 0, lastzc := 0,
            cmtdly := 0, zcdone := false, zcvalid := false }
    spd := { sysclk := 0, polepairs := 0, maxspeed := 0, mspeed := 0, lastedge := 0, spdsamp := 0,
             spdtmo := 0, edgeage := 0, skip := true, seed := true }
    cur := { calgain := 0, calofs := 0, pkacc := 0, ipeak := 0, iavg := 0, rmsk := 0x0000B505#31,
             irms := 0, pwrscale := 0x00010000#31, power := 0, vbus := 0, temp := 0 }
    mon := { tmax := 0x7FFFFFFF#32, vmin := 0, vmax := 0x7FFFFFFF#31, iminl := 0,
             imaxl := 0x7FFFFFFF#31, minspeed := 0, stallth := 0x05DC#16, stallcnt := 0,
             wdflag := false, outen := false, runst := false }
    pend := Pending.empty
    hostq := []
    inReset := false
    inputs := []
    busData := none
    cmtarm := none }

end Sys2Proof.Machine
end

