-- ==== Sys2Proof/Machine/Flags.lean ====
section
/-! DEFINITION. The sticky bits: `ERR` set by flag and raise, `IRQST`, `FAULT`, and the interrupt level. -/

namespace Sys2Proof.Machine

/-- The bits of `ERR` (10_state.md R24, 60_exceptions.md R301). -/
inductive ErrBit where
  | mulovf
  | div0
  | nodrive
  | taberr
  | adcerr
  | badcmd
  | buserr
  | evovr
  deriving DecidableEq, Repr

/-- The bit of `ERR` with its position (10_state.md R24). -/
def ErrBit.mask : ErrBit → BitVec 8
  | .mulovf => 0x01
  | .div0 => 0x02
  | .nodrive => 0x04
  | .taberr => 0x08
  | .adcerr => 0x10
  | .badcmd => 0x20
  | .buserr => 0x40
  | .evovr => 0x80

/-- The bits of `IRQST` and `IRQEN` (10_state.md R26, 60_exceptions.md R304). -/
inductive IrqBit where
  | fault
  | upd
  | zc
  | cmt
  | err
  deriving DecidableEq, Repr

/-- The bit of `IRQST` with its position (10_state.md R26). -/
def IrqBit.mask : IrqBit → BitVec 5
  | .fault => 0x01
  | .upd => 0x02
  | .zc => 0x04
  | .cmt => 0x08
  | .err => 0x10

/-- The bits of `FAULT` (10_state.md R28, 60_exceptions.md R302). -/
inductive FaultBit where
  | estop
  | vbusLow
  | vbusHigh
  | currentLow
  | currentHigh
  | tempHigh
  | stall
  | watchdog
  deriving DecidableEq, Repr

/-- The bit of `FAULT` with its position (10_state.md R28). -/
def FaultBit.mask : FaultBit → BitVec 8
  | .estop => 0x01
  | .vbusLow => 0x02
  | .vbusHigh => 0x04
  | .currentLow => 0x08
  | .currentHigh => 0x10
  | .tempHigh => 0x20
  | .stall => 0x40
  | .watchdog => 0x80

/-- A fault bit's mask if its condition holds (47_fault_monitor.md R281). -/
def FaultBit.maskIf (b : FaultBit) (holds : Bool) : BitVec 8 := if holds then b.mask else 0

/-- An `IRQST` bit becomes pending (60_exceptions.md R304). -/
def State.setIrq (b : IrqBit) (s : State) : State := { s with irqst := s.irqst ||| b.mask }

/-- `flag X`: the operation goes on (00_scope.md R7). -/
def State.flag (e : ErrBit) (s : State) : State :=
  { s with err := s.err ||| e.mask, irqst := s.irqst ||| IrqBit.err.mask }

/-- `flag X` where a condition holds. -/
def State.flagIf (b : Bool) (e : ErrBit) (s : State) : State := if b then s.flag e else s

/-- `raise X`: the flag, and nothing else of the operation (00_scope.md R7). -/
def State.raise (e : ErrBit) (s : State) : State := s.flag e

/-- Fault bits are latched: none is cleared (10_state.md R28). -/
def State.latchFault (held : BitVec 8) (s : State) : State := { s with fault := s.fault ||| held }

/-- The interrupt output, a level (10_state.md R26, 60_exceptions.md R304). -/
def State.irq (s : State) : Bool := (s.irqst &&& s.irqen) != 0

end Sys2Proof.Machine
end

