-- ==== Sys2Proof/Machine/Operands.lean ====
section
/-! DEFINITION. Fixed-point arithmetic: exact integers, floor, clamp, `fixmul`, and the narrowings
back to register widths (00_scope.md R4 to R6). -/

namespace Sys2Proof.Machine

/-- `clamp(x, lo, hi)` (00_scope.md R5). -/
def clamp (x lo hi : Int) : Int := min (max x lo) hi

/-- The full product of two 16.16 integers shifted right by 16, rounding down (00_scope.md R6). -/
def fixprod (a b : Int) : Int := a * b / 65536

/-- The value fits 32 signed bits (00_scope.md R6). -/
def fits32 (p : Int) : Bool := decide (-2147483648 ≤ p ∧ p ≤ 2147483647)

/-- `fixmul(a, b)`: the shifted product, or bits [47:16] of the product read as a signed number when
it does not fit (00_scope.md R6). -/
def fixmul (a b : Int) : Int :=
  if fits32 (fixprod a b) then fixprod a b else Int.bmod (fixprod a b) 4294967296

/-- `fixmul(a, b)` executes `flag MULOVF` (00_scope.md R6). -/
def fixmulOvf (a b : Int) : Bool := !fits32 (fixprod a b)

/-- The unsigned value of a register as an integer (00_scope.md R2, R5). -/
def uval {w : Nat} (x : BitVec w) : Int := (x.toNat : Int)

/-- Narrowing to bits [30:0]; every caller's value is in range (00_scope.md R4). -/
def toNonNeg (x : Int) : NonNeg := BitVec.ofInt 31 x

/-- Narrowing to 32 bits, two's complement (00_scope.md R4). -/
def toWord (x : Int) : Word := BitVec.ofInt 32 x

/-- Bit 31 of a non-negative 16.16 field is dropped (20_memory.md R85, 30_encoding.md R105). -/
def dropBit31 (v : Word) : NonNeg := v.truncate 31

/-- The difference of two times, modulo 2^32 (44_speed.md R212, 45_bemf.md R235). -/
def elapsed (now before : Word) : Nat := (now - before).toNat

/-- The 3:1 filter `(3*old + sample) >> 2` (00_scope.md section 6). -/
def iir3 (old sample : Nat) : Nat := (3 * old + sample) / 4

end Sys2Proof.Machine
end

