-- ==== Sys2Proof/Machine/Ops.lean ====
section
/-! DEFINITION. Operations shared by the families: the PI register banks, the trip (the block's one
"entry", 60_exceptions.md R306) and the way back from it, and the outputs. -/

namespace Sys2Proof.Machine

/-- The PI instance a legal IDX selects (41_pi.md R140). -/
def piSelect (n : BitVec 4) : Option (Fin 2) :=
  if h : n.toNat < 2 then some ⟨n.toNat, h⟩ else none

/-- The registers of PI instance `n` (10_state.md R31). -/
def State.pi (n : Fin 2) (s : State) : PiRegs := if n = 0 then s.pi0 else s.pi1

/-- The registers of PI instance `n` are replaced; the two instances share no state (41_pi.md R140). -/
def State.setPi (n : Fin 2) (p : PiRegs) (s : State) : State :=
  if n = 0 then { s with pi0 := p } else { s with pi1 := p }

/-- `SpeedFresh()` on the estimator's registers (44_speed.md R210). -/
def SpeedRegs.fresh (p : SpeedRegs) : SpeedRegs :=
  { p with skip := true, seed := true, mspeed := 0, edgeage := 0 }

/-- `SpeedFresh()` (44_speed.md R210). -/
def speedFresh (s : State) : State := { s with spd := s.spd.fresh }

/-- `Trip()`: outputs off, not running, stall counter 0, estimator fresh; nothing is saved
(47_fault_monitor.md R283, 60_exceptions.md R306). -/
def trip (s : State) : State :=
  speedFresh { s with mon := { s.mon with outen := false, runst := false, stallcnt := 0 } }

/-- Fault bits are latched, the trip is taken and `IRQST.FAULT` is set: what every fault does
(47_fault_monitor.md R280, R284, 60_exceptions.md R302). -/
def takeFault (held : BitVec 8) (s : State) : State :=
  (trip (s.latchFault held)).setIrq .fault

/-- Leaving the tripped condition: every fault bit is cleared and nothing else
(47_fault_monitor.md R285, 60_exceptions.md R307). -/
def clearFaults (s : State) : State := { s with fault := 0 }

/-- The outputs of the block (10_state.md R60). -/
structure Outputs where
  dutyA : Duty
  dutyB : Duty
  dutyC : Duty
  phmask : Mask
  outen : Bool
  floatph : BitVec 2
  cmtarm : Option Word
  cmtdly : Word
  irq : Bool
  deriving DecidableEq, Repr

/-- The outputs copy the state continuously (10_state.md R60); the strobe is the last operation's. -/
def State.outputs (s : State) : Outputs :=
  { dutyA := s.wave.dutyA, dutyB := s.wave.dutyB, dutyC := s.wave.dutyC, phmask := s.cmt.phmask,
    outen := s.mon.outen, floatph := s.cmt.floatph, cmtarm := s.cmtarm, cmtdly := s.zc.cmtdly,
    irq := s.irq }

end Sys2Proof.Machine
end

