-- ==== Sys2Proof/Machine/Arbiter.lean ====
section
/-! DEFINITION. Arrivals at the ports and the arbiter: pending latches, overrun, the host's queue and
the reset input (10_state.md R50, 20_memory.md R91, 70_reset_and_hazards.md R320, R331). -/

namespace Sys2Proof.Machine

/-- The operation a complete list of words spells, with nothing left over (30_encoding.md R104). -/
def decodeWhole (f : Format) (ws : List Word) : Option Instr :=
  match decode f ws with
  | .ok (i, []) => some i
  | .ok (_, _ :: _) => none
  | .error _ => none

/-- A PWM period ends: one more period is pending, and a full counter loses it with EVOVR
(10_state.md R50, 70_reset_and_hazards.md R331). The record's `c` is the count of periods since the
last performed EV_PWM (60_exceptions.md R308), so it is not added: it counts only where it says more
than the arrivals seen (log 2). -/
def arrivePwm (c : Word) (s : State) : State :=
  let n := max (s.pend.pwm.toNat + 1) c.toNat
  State.flagIf (decide (0xFFFFFFFF < n)) .evovr
    { s with pend.pwm := BitVec.ofNat 32 (min n 0xFFFFFFFF) }

/-- An ADC batch is latched; an older one still pending is lost (70_reset_and_hazards.md R331). It
stands behind a pending `EV_ADCERR` (20_memory.md R91, log 3). -/
def arriveAdc (b : AdcBatch) (s : State) : State :=
  State.flagIf s.pend.adc.isSome .evovr
    { s with pend := { s.pend with adc := some b, adcErrFirst := s.pend.adcErr } }

/-- A Hall edge is latched (70_reset_and_hazards.md R331). -/
def arriveHall (e : HallEdge) (s : State) : State :=
  State.flagIf s.pend.hall.isSome .evovr { s with pend.hall := some e }

/-- A commutation-timer expiry is latched (70_reset_and_hazards.md R331). -/
def arriveCmt (s : State) : State := State.flagIf s.pend.cmt .evovr { s with pend.cmt := true }

/-- A millisecond tick is latched (70_reset_and_hazards.md R331). -/
def arriveTick (s : State) : State := State.flagIf s.pend.tick .evovr { s with pend.tick := true }

/-- A watchdog expiry is latched (70_reset_and_hazards.md R331). -/
def arriveWdog (s : State) : State := State.flagIf s.pend.wdog .evovr { s with pend.wdog := true }

/-- An ADC error is latched; it stands behind a pending `EV_ADC` (20_memory.md R91, log 3). -/
def arriveAdcerr (s : State) : State :=
  State.flagIf s.pend.adcErr .evovr
    { s with pend := { s.pend with adcErr := true, adcErrFirst := false } }

/-- The latch an event goes to (10_state.md R50); a record with `C = 0` and an operation of another
port are no event (30_encoding.md R105). -/
def latchEvent (i : Instr) (s : State) : Option State :=
  match i with
  | .evPwm c => if c = 0 then none else some (arrivePwm c s)
  | .evAdc ic vbemf vb tp ts =>
    some (arriveAdc { ic := ic, vbemf := vbemf, vb := vb, tp := tp, ts := ts } s)
  | .evHall h ts => some (arriveHall { h := h, ts := ts } s)
  | .evCmt => some (arriveCmt s)
  | .evTick => some (arriveTick s)
  | .evWdog => some (arriveWdog s)
  | .evAdcerr => some (arriveAdcerr s)
  | .nop | .piStep _ | .piReset _ | .piSeed _ | .angReset | .angSetfreq | .waveUpdate | .cmtHall
  | .cmtStepset _ | .cmtStepadv | .zcReset | .spdReset | .curReset | .faultClear | .estop | .outOn
  | .outOff | .runEnter | .runExit | .regRead _ _ | .regWrite _ _ _ => none

/-- An event record arrives (10_state.md R50). -/
def arriveEvent (record : List Word) (s : State) : Except Refusal State :=
  match (decodeWhole .event record).bind (latchEvent · s) with
  | some t => .ok t
  | none => .error .malformedEvent

/-- The bus cycle that descriptor words spell, at the size the host uses (30_encoding.md R107). -/
def busCycle (words : List Word) (size : Nat) : Option Access :=
  match decodeWhole .access words with
  | some (.regRead o _) => some { write := false, offset := o, size := size, data := 0 }
  | some (.regWrite o _ v) => some { write := true, offset := o, size := size, data := v }
  | _ => none

/-- The host presents an access; it waits behind the accesses the host issued before it
(20_memory.md R90). -/
def arriveBus (words : List Word) (size : Nat) (s : State) : Except Refusal State :=
  match busCycle words size with
  | some a => .ok { s with hostq := s.hostq ++ [a] }
  | none => .error .malformedAccess

/-- While reset is asserted a host read returns 0 without error and a write is ignored
(70_reset_and_hazards.md R320). -/
def busInReset (words : List Word) (size : Nat) (s : State) : State :=
  match busCycle words size with
  | some a => if a.write then s else { s with busData := some 0 }
  | none => s

/-- The reset input is asserted: every register, hidden bit and latch takes its reset value and no
access waits (70_reset_and_hazards.md R320, log 9); the environment's script goes on. -/
def assertReset (s : State) : State := { State.reset with inReset := true, inputs := s.inputs }

/-- One input arrives. While reset is asserted, events and host accesses are ignored
(70_reset_and_hazards.md R320). -/
def arrive (x : Input) (s : State) : Except Refusal State :=
  match x with
  | .event record => if s.inReset then .ok s else arriveEvent record s
  | .bus words size => if s.inReset then .ok (busInReset words size s) else arriveBus words size s
  | .resetAssert => .ok (assertReset s)
  | .resetRelease => .ok { s with inReset := false }

/-- The inputs of a batch arrive in order. -/
def arriveAll : List Input → State → Except Refusal State
  | [], s => .ok s
  | x :: xs, s =>
    match arrive x s with
    | .ok t => arriveAll xs t
    | .error r => .error r

/-- The operation of a waiting host access (40_dispatch.md R121, R122). -/
def Access.toInstr (a : Access) : Instr :=
  if a.write then .regWrite a.offset a.size a.data else .regRead a.offset a.size

/-- The pending `EV_PWM`, which carries the whole count (10_state.md R50). -/
def pickPwm (p : Pending) : Option (Instr × Pending) :=
  if p.pwm = 0 then none else some (.evPwm p.pwm, { p with pwm := 0 })

/-- The pending `EV_ADC` or `EV_ADCERR` that arrived first (20_memory.md R91). -/
def pickAdc (p : Pending) : Option (Instr × Pending) :=
  let err := (Instr.evAdcerr, { p with adcErr := false, adcErrFirst := false })
  match p.adc with
  | some b =>
    if p.adcErr && p.adcErrFirst then some err
    else
      some (.evAdc b.ic b.vbemf b.vb b.tp b.ts, { p with adc := none, adcErrFirst := false })
  | none => if p.adcErr then some err else none

/-- The pending `EV_HALL`. -/
def pickHall (p : Pending) : Option (Instr × Pending) :=
  p.hall.map fun e => (.evHall e.h e.ts, { p with hall := none })

/-- The pending `EV_CMT`. -/
def pickCmt (p : Pending) : Option (Instr × Pending) :=
  if p.cmt then some (.evCmt, { p with cmt := false }) else none

/-- The pending `EV_TICK`. -/
def pickTick (p : Pending) : Option (Instr × Pending) :=
  if p.tick then some (.evTick, { p with tick := false }) else none

/-- The pending `EV_WDOG`. -/
def pickWdog (p : Pending) : Option (Instr × Pending) :=
  if p.wdog then some (.evWdog, { p with wdog := false }) else none

/-- The pending event of highest priority, with its latch emptied (20_memory.md R91). -/
def selectEvent (p : Pending) : Option (Instr × Pending) :=
  pickPwm p <|> pickAdc p <|> pickHall p <|> pickCmt p <|> pickTick p <|> pickWdog p

/-- The ready operation of highest priority, host accesses last, and the state with it taken out of
its latch or queue (20_memory.md R91). -/
def select (s : State) : Option (Instr × State) :=
  match selectEvent s.pend with
  | some (i, p) => some (i, { s with pend := p })
  | none =>
    match s.hostq with
    | a :: q => some (a.toInstr, { s with hostq := q })
    | [] => none

/-- A step begins: the next batch leaves the script, and what the last operation drove is gone: a
strobe lasts one operation (00_scope.md R9, log 4). -/
def beginStep (s : State) : State :=
  { s with inputs := s.inputs.tail, busData := none, cmtarm := none }

/-- The state in which the next step performs exactly the operation whose words are `ws`, presented
on the port `f`: nothing else is pending, reset is released, and the words are the one input of the
next step (log 11). -/
def presentWords (f : Format) (ws : List Word) (s : State) : State :=
  match f with
  | .event =>
    { s with pend := Pending.empty, inReset := false, inputs := [.event ws] :: s.inputs }
  | .access =>
    { s with pend := Pending.empty, hostq := [], inReset := false
             inputs := [.bus ws 4] :: s.inputs }
  | .command =>
    { s with pend := Pending.empty, hostq := [], inReset := false
             inputs := [.bus (accessWord 1 0x01C#10 :: ws) 4] :: s.inputs }

/-- The port and the words of an operation whose bits are `w`, numbered as spec/opcode_table.json
numbers them; a word no port accepts goes to `CMD`, which raises BADCMD (log 6). -/
def tablePresentation (nbits w : Nat) : Format × List Word :=
  let ws := tableWords nbits w
  match tableDecode ws with
  | some (f, i) => (f, ws.take (encode i).length)
  | none => (.command, ws.take 1)

end Sys2Proof.Machine
end

