-- ==== Sys2Proof/Machine/Speed.lean ====
section
/-! DEFINITION. Edge-time speed estimator: SpeedEdge, SpeedAge and SPD_RESET (44_speed.md). -/

namespace Sys2Proof.Machine

/-- The raw sample: mechanical rpm, rounded down, saturating (44_speed.md R213). -/
def speedSample (sysclk den : Nat) : Nat := min (sysclk * 60 / den) 0xFFFFFFFF

/-- The sample differs from the filtered speed by more than half the maximum (44_speed.md R214). -/
def speedRejects (maxspeed mspeed sample : Nat) : Bool :=
  decide (maxspeed / 2 < ((sample : Int) - mspeed).natAbs)

/-- The divisor of the sample: elapsed ticks times pole pairs (44_speed.md R212). -/
def speedDen (ts : Word) (p : SpeedRegs) : Nat := elapsed ts p.lastedge * p.polepairs.toNat

/-- `SpeedEdge(TS)` on the estimator's registers (44_speed.md R212). -/
def speedEdgeRegs (ts : Word) (p : SpeedRegs) : SpeedRegs :=
  if p.skip then { p with edgeage := 0, skip := false, lastedge := ts }
  else if speedDen ts p = 0 then { p with edgeage := 0, lastedge := ts }
  else
    let sample := speedSample p.sysclk.toNat (speedDen ts p)
    let q := { p with edgeage := 0, lastedge := ts, spdsamp := BitVec.ofNat 32 sample }
    if p.seed then { q with mspeed := BitVec.ofNat 32 sample, seed := false }
    else if speedRejects p.maxspeed.toNat p.mspeed.toNat sample then q
    else { q with mspeed := BitVec.ofNat 32 (iir3 p.mspeed.toNat sample) }

/-- `SpeedEdge(TS)` divides by 0 (44_speed.md R212). -/
def speedEdgeDiv0 (ts : Word) (p : SpeedRegs) : Bool := !p.skip && speedDen ts p == 0

/-- `SpeedEdge(TS)` (44_speed.md R212). -/
def speedEdge (ts : Word) (s : State) : State :=
  State.flagIf (speedEdgeDiv0 ts s.spd) .div0 { s with spd := speedEdgeRegs ts s.spd }

/-- `SpeedAge()` on the estimator's registers (44_speed.md R216). -/
def speedAgeRegs (p : SpeedRegs) : SpeedRegs :=
  let age := min (p.edgeage.toNat + 1) 0xFFFF
  let q := { p with edgeage := BitVec.ofNat 16 age }
  if p.spdtmo ≠ 0 ∧ p.spdtmo.toNat ≤ age then { q with mspeed := 0, skip := true, seed := true }
  else q

/-- `SpeedAge()`, the first step of a tick (44_speed.md R216). -/
def speedAge (s : State) : State := { s with spd := speedAgeRegs s.spd }

/-- SPD_RESET (44_speed.md R215). -/
def execSpdReset (s : State) : Host.Outcome State Fault Refusal := .next (speedFresh s)

end Sys2Proof.Machine
end

