-- ==== Sys2Proof/Machine/Bemf.lean ====
section
/-! DEFINITION. Step-table entries and the back-EMF zero-crossing detector: ZcArm, BemfSample,
ZcDetect and ZC_RESET (45_bemf.md). -/

namespace Sys2Proof.Machine

/-- The active entry `STAB[6*DIR + CSTEP]` (10_state.md R38). -/
def stabEntry (dir : Bool) (c : CmtRegs) : BitVec 9 :=
  if dir then c.stab[6 + c.cstep.val]'(by omega) else c.stab[c.cstep.val]'(by omega)

/-- MASK of a step entry (10_state.md R38). -/
def entryMask (e : BitVec 9) : Mask := e.extractLsb' 0 6

/-- FLT of a step entry: the floating phase, 3 for none (10_state.md R38). -/
def entryFlt (e : BitVec 9) : BitVec 2 := e.extractLsb' 6 2

/-- EDGE of a step entry: rising if set (10_state.md R38). -/
def entryEdge (e : BitVec 9) : Bool := e.msb

/-- `ZcArm()` (45_bemf.md R231). -/
def zcArm (s : State) : State :=
  { s with zc := { s.zc with skipcnt := s.zc.skiprst, zcdone := false } }

/-- The sample is at or past half the bus voltage in the entry's direction, and the sub-state has a
floating phase (45_bemf.md R233, R234). -/
def bemfCrosses (e : BitVec 9) (vbus vbemf : NonNeg) : Bool :=
  entryFlt e != 3 &&
    if entryEdge e then decide (vbus.toNat / 2 ≤ vbemf.toNat) else decide (vbemf.toNat ≤ vbus.toNat / 2)

/-- The smoothed period after a crossing at `ts` (45_bemf.md R235, R236). -/
def smoothedPeriod (ts : Word) (z : ZcRegs) : Nat :=
  if z.zcvalid then iir3 z.avgper.toNat (elapsed ts z.lastzc) else z.avgper.toNat

/-- The commutation delay: half the period, less the latency and half a PWM period, at least 1
(45_bemf.md R236). -/
def commutationDelay (avg latency pwmper : Nat) : Int :=
  max ((avg / 2 : Nat) - (latency : Int) - (pwmper / 2 : Nat)) 1

/-- `ZcDetect(TS)` on the detector's registers (45_bemf.md R235). -/
def zcDetectRegs (ts : Word) (z : ZcRegs) : ZcRegs :=
  { z with
    zcdone := true
    avgper := BitVec.ofNat 32 (smoothedPeriod ts z)
    lastzc := ts
    zcvalid := true
    cmtdly := toWord (commutationDelay (smoothedPeriod ts z) z.latency.toNat z.pwmper.toNat) }

/-- `ZcDetect(TS)`: the delay is issued as a strobe, and a crossing at step 0 is a speed edge
(45_bemf.md R235). -/
def zcDetect (ts : Word) (s : State) : State :=
  let z := zcDetectRegs ts s.zc
  let t := State.setIrq .zc { s with zc := z, cmtarm := some z.cmtdly }
  if s.cmt.cstep = 0 then speedEdge ts t else t

/-- `BemfSample(VBEMF, TS)` (45_bemf.md R233). -/
def bemfSample (vbemf : NonNeg) (ts : Word) (s : State) : State :=
  if s.zc.zcdone then s
  else if s.zc.skipcnt ≠ 0 then { s with zc := { s.zc with skipcnt := s.zc.skipcnt - 1 } }
  else if bemfCrosses (stabEntry s.ctrl.dir s.cmt) s.cur.vbus vbemf then zcDetect ts s
  else s

/-- ZC_RESET (45_bemf.md R232). -/
def execZcReset (s : State) : Host.Outcome State Fault Refusal :=
  .next { s with zc := { s.zc with zcvalid := false, zcdone := false, skipcnt := s.zc.skiprst } }

end Sys2Proof.Machine
end

