-- ==== Sys2Proof/Machine/Adc.lean ====
section
/-! DEFINITION. The ADC events EV_ADC and EV_ADCERR (46_current.md). -/

namespace Sys2Proof.Machine

/-- The larger of the open window's peak and a new count (46_current.md R251). -/
def maxCount (a b : BitVec 16) : BitVec 16 := if a.toNat < b.toNat then b else a

/-- The latches an ADC batch writes (46_current.md R250). -/
def adcLatch (ic : BitVec 16) (vb tp : Word) (c : CurRegs) : CurRegs :=
  { c with vbus := dropBit31 vb, temp := tp, pkacc := maxCount c.pkacc ic }

/-- EV_ADC: latches first, then the BEMF sample in MODE 3 (46_current.md R250). -/
def execEvAdc (ic : BitVec 16) (vbemf vb tp ts : Word) (s : State) :
    Host.Outcome State Fault Refusal :=
  let t := { s with cur := adcLatch ic vb tp s.cur }
  .next (if s.ctrl.mode = .trapBemf then bemfSample (dropBit31 vbemf) ts t else t)

/-- EV_ADCERR (46_current.md R257). -/
def execEvAdcerr (s : State) : Host.Outcome State Fault Refusal := .next (s.flag .adcerr)

end Sys2Proof.Machine
end

