-- ==== Sys2Proof/Machine/Current.lean ====
section
/-! DEFINITION. Current peak window, average, RMS and power: WindowClose and CUR_RESET (46_current.md). -/

namespace Sys2Proof.Machine

/-- `cal(pk)` (46_current.md R253). -/
def cal (c : CurRegs) (pk : BitVec 16) : Int :=
  clamp (uval pk * uval c.calgain + c.calofs.toInt) 0 0x7FFFFFFF

/-- `IPEAK` of a window that closes (46_current.md R252). -/
def closePeak (c : CurRegs) : Nat := (cal c c.pkacc).toNat

/-- `IAVG` after the window closes (46_current.md R254). -/
def closeAvg (c : CurRegs) : Nat := iir3 c.iavg.toNat (closePeak c)

/-- The duty of the power product: the effective amplitude clipped to 1.0 (46_current.md R255). -/
def powerDuty (ampeff : NonNeg) : Int := min (uval ampeff) 0x10000

/-- `fixmul(VBUS, d)` (46_current.md R255). -/
def powerVd (ampeff : NonNeg) (c : CurRegs) : Int := fixmul (uval c.vbus) (powerDuty ampeff)

/-- `fixmul(fixmul(VBUS, d), IAVG)` with the new average (46_current.md R255). -/
def powerVdi (ampeff : NonNeg) (c : CurRegs) : Int := fixmul (powerVd ampeff c) (closeAvg c)

/-- The scaled power sample (46_current.md R255). -/
def powerSample (ampeff : NonNeg) (c : CurRegs) : Int :=
  fixmul (powerVdi ampeff c) (uval c.pwrscale)

/-- `WindowClose()` on the filter's registers (46_current.md R252). -/
def windowCloseRegs (ampeff : NonNeg) (c : CurRegs) : CurRegs :=
  { c with
    ipeak := BitVec.ofNat 31 (closePeak c)
    iavg := BitVec.ofNat 31 (closeAvg c)
    irms := toWord (fixmul (closeAvg c) (uval c.rmsk))
    power := toWord ((15 * c.power.toInt + powerSample ampeff c) / 16)
    pkacc := 0 }

/-- A product of `WindowClose()` overflows (00_scope.md R6, 46_current.md R252; the RMS product
counts too, log 14). -/
def windowCloseOvf (ampeff : NonNeg) (c : CurRegs) : Bool :=
  fixmulOvf (closeAvg c) (uval c.rmsk) || fixmulOvf (uval c.vbus) (powerDuty ampeff) ||
    fixmulOvf (powerVd ampeff c) (closeAvg c) || fixmulOvf (powerVdi ampeff c) (uval c.pwrscale)

/-- `WindowClose()` (46_current.md R252). -/
def windowClose (s : State) : State :=
  State.flagIf (windowCloseOvf s.wave.ampeff s.cur) .mulovf
    { s with cur := windowCloseRegs s.wave.ampeff s.cur }

/-- CUR_RESET (46_current.md R256). -/
def execCurReset (s : State) : Host.Outcome State Fault Refusal :=
  .next { s with cur := { s.cur with pkacc := 0, ipeak := 0, iavg := 0, irms := 0, power := 0 } }

end Sys2Proof.Machine
end

