-- ==== Sys2Proof/Machine/Commutation.lean ====
section
/-! DEFINITION. Trapezoidal commutation: SetMask, the Hall and step lookups, CMT_HALL, CMT_STEPSET,
CMT_STEPADV, EV_HALL and EV_CMT (43_commutation.md). -/

namespace Sys2Proof.Machine

/-- `illegal(m)`: both switches of one leg are on (43_commutation.md R191). -/
def maskIllegal (m : Mask) : Bool := (m &&& (m >>> 1) &&& 0b010101#6) != 0

/-- `swap(m)`: high and low exchange within each pair (43_commutation.md R194). -/
def swapMask (m : Mask) : Mask := ((m &&& 0b010101#6) <<< 1) ||| ((m &&& 0b101010#6) >>> 1)

/-- The mode is TRAP_HALL or TRAP_BEMF (43_commutation.md R192). -/
def Mode.isTrap : Mode → Bool
  | .trapHall | .trapBemf => true
  | .sine | .svpwm => false

/-- `SetMask(m)`, the only writer of `PHMASK` (43_commutation.md R192). -/
def setMask (m : Mask) (s : State) : State :=
  if m = s.cmt.phmask then s
  else
    let t := State.setIrq .cmt { s with cmt := { s.cmt with phmask := m } }
    if s.ctrl.mode.isTrap then windowClose t else t

/-- A mask read from a table is not applied if it is illegal (43_commutation.md R191). -/
def appliedMask (m : Mask) : Mask := if maskIllegal m then 0 else m

/-- The flags of a lookup that reads the mask `m` (43_commutation.md R193, R196). -/
def lookupFlags (m : Mask) (s : State) : State :=
  if maskIllegal m then s.flag .taberr else if m = 0 then s.flag .nodrive else s

/-- The Hall table's entry for the latched Hall state (43_commutation.md R193). -/
def hallEntry (hall60 : Bool) (c : CmtRegs) : Mask :=
  if hall60 then c.htab60[c.hall.toNat] else c.htab120[c.hall.toNat]

/-- The mask a Hall lookup applies: swapped in reverse (43_commutation.md R193, R194). -/
def hallMask (dir : Bool) (m : Mask) : Mask :=
  if dir then swapMask (appliedMask m) else appliedMask m

/-- `LookupHall()` (43_commutation.md R193). -/
def lookupHall (s : State) : State :=
  let m := hallEntry s.ctrl.hall60 s.cmt
  setMask (hallMask s.ctrl.dir m) (lookupFlags m s)

/-- `ApplyStep()`; the reverse half of the table is used in reverse, no swap (43_commutation.md R196). -/
def applyStep (s : State) : State :=
  let e := stabEntry s.ctrl.dir s.cmt
  setMask (appliedMask (entryMask e))
    (lookupFlags (entryMask e) { s with cmt := { s.cmt with floatph := entryFlt e } })

/-- A step change in MODE 3 applies the step and re-arms the detector (43_commutation.md R197, R200). -/
def enterStep (k : Fin 6) (s : State) : State :=
  let t := { s with cmt := { s.cmt with cstep := k } }
  if s.ctrl.mode = .trapBemf then zcArm (applyStep t) else t

/-- `(CSTEP + 1) mod 6` (43_commutation.md R197). -/
def nextStep (k : Fin 6) : Fin 6 := ⟨(k.val + 1) % 6, Nat.mod_lt _ (by decide)⟩

/-- `StepAdv()` (43_commutation.md R197). -/
def stepAdv (s : State) : State := enterStep (nextStep s.cmt.cstep) s

/-- A rising edge of Hall sensor A (43_commutation.md R195, 44_speed.md R211). -/
def hallRises (old new : BitVec 3) : Bool := !old.getLsbD 0 && new.getLsbD 0

/-- EV_HALL (43_commutation.md R195). -/
def execEvHall (h : BitVec 3) (ts : Word) (s : State) : Host.Outcome State Fault Refusal :=
  let t := { s with cmt := { s.cmt with hall := h } }
  let u := if s.ctrl.mode = .trapHall then lookupHall t else t
  .next (if s.ctrl.mode ≠ .trapBemf ∧ hallRises s.cmt.hall h then speedEdge ts u else u)

/-- CMT_HALL (43_commutation.md R199). -/
def execCmtHall (s : State) : Host.Outcome State Fault Refusal :=
  .next (if s.ctrl.mode = .trapHall then lookupHall s else s)

/-- EV_CMT (43_commutation.md R198). -/
def execEvCmt (s : State) : Host.Outcome State Fault Refusal :=
  .next (if s.ctrl.mode = .trapBemf then stepAdv s else s)

/-- CMT_STEPSET k (43_commutation.md R200); an illegal IDX does nothing but `raise BADCMD`. -/
def execCmtStepset (k : BitVec 4) (s : State) : Host.Outcome State Fault Refusal :=
  if h : k.toNat < 6 then .next (enterStep ⟨k.toNat, h⟩ s) else .next (s.raise .badcmd)

/-- CMT_STEPADV (43_commutation.md R201). -/
def execCmtStepadv (s : State) : Host.Outcome State Fault Refusal := .next (stepAdv s)

end Sys2Proof.Machine
end

