-- ==== Sys2Proof/Machine/Monitor.lean ====
section
/-! DEFINITION. Fault monitor and output control: EV_TICK, EV_WDOG, ESTOP, FAULT_CLEAR, OUT_ON,
OUT_OFF, RUN_ENTER and RUN_EXIT (47_fault_monitor.md). -/

namespace Sys2Proof.Machine

/-- The stall counter at a tick (47_fault_monitor.md R282). -/
def stallCount (m : MonRegs) (mspeed : Word) : Nat :=
  if m.runst ∧ mspeed = 0 then min (m.stallcnt.toNat + 1) 0xFFFF else 0

/-- TEMP_HIGH holds (47_fault_monitor.md R281). -/
def tempHigh (s : State) : Bool := decide (s.mon.tmax.toInt < s.cur.temp.toInt)

/-- VBUS_LOW holds (47_fault_monitor.md R281). -/
def vbusLow (s : State) : Bool := decide (s.cur.vbus.toNat < s.mon.vmin.toNat)

/-- VBUS_HIGH holds (47_fault_monitor.md R281). -/
def vbusHigh (s : State) : Bool := decide (s.mon.vmax.toNat < s.cur.vbus.toNat)

/-- CURRENT_LOW holds (47_fault_monitor.md R281). -/
def currentLow (s : State) : Bool :=
  s.mon.runst && decide (s.mon.minspeed.toNat ≤ s.spd.mspeed.toNat) &&
    decide (s.cur.iavg.toNat < s.mon.iminl.toNat)

/-- CURRENT_HIGH holds: the closed window's peak or the open one's is above the limit
(47_fault_monitor.md R281). -/
def currentHigh (s : State) : Bool :=
  decide (uval s.mon.imaxl < max (uval s.cur.ipeak) (cal s.cur s.cur.pkacc))

/-- STALL holds, after the counter's update (47_fault_monitor.md R281, R282). -/
def stallHolds (s : State) : Bool :=
  s.mon.stallth != 0 && s.mon.runst &&
    decide (s.mon.stallth.toNat ≤ stallCount s.mon s.spd.mspeed)

/-- `held`, the OR of the conditions that hold at a tick (47_fault_monitor.md R281). -/
def heldFaults (s : State) : BitVec 8 :=
  FaultBit.tempHigh.maskIf (tempHigh s) ||| FaultBit.vbusLow.maskIf (vbusLow s) |||
  FaultBit.vbusHigh.maskIf (vbusHigh s) ||| FaultBit.currentLow.maskIf (currentLow s) |||
  FaultBit.currentHigh.maskIf (currentHigh s) ||| FaultBit.stall.maskIf (stallHolds s) |||
  FaultBit.watchdog.maskIf s.mon.wdflag

/-- What the evaluation of the conditions writes: the stall counter, and `WDFLAG` is cleared
(47_fault_monitor.md R281, R282). -/
def monTick (s : State) : State :=
  { s with
    mon := { s.mon with
      stallcnt := BitVec.ofNat 16 (stallCount s.mon s.spd.mspeed)
      wdflag := false } }

/-- EV_TICK (47_fault_monitor.md R280). -/
def execEvTick (s : State) : Host.Outcome State Fault Refusal :=
  let t := speedAge s
  .next (if heldFaults t = 0 then monTick t else takeFault (heldFaults t) (monTick t))

/-- EV_WDOG (47_fault_monitor.md R287). -/
def execEvWdog (s : State) : Host.Outcome State Fault Refusal :=
  .next { s with mon := { s.mon with wdflag := true } }

/-- ESTOP (47_fault_monitor.md R284). -/
def execEstop (s : State) : Host.Outcome State Fault Refusal :=
  .next (takeFault FaultBit.estop.mask s)

/-- FAULT_CLEAR (47_fault_monitor.md R285). -/
def execFaultClear (s : State) : Host.Outcome State Fault Refusal := .next (clearFaults s)

/-- OUT_ON, refused while a fault is latched (47_fault_monitor.md R286). -/
def execOutOn (s : State) : Host.Outcome State Fault Refusal :=
  .next (if s.fault = 0 then { s with mon := { s.mon with outen := true } } else s)

/-- OUT_OFF (47_fault_monitor.md R288). -/
def execOutOff (s : State) : Host.Outcome State Fault Refusal :=
  .next { s with mon := { s.mon with outen := false } }

/-- RUN_ENTER, a no-op while a fault is latched or the block runs (47_fault_monitor.md R289). -/
def execRunEnter (s : State) : Host.Outcome State Fault Refusal :=
  .next
    (if s.fault = 0 ∧ s.mon.runst = false then
      speedFresh { s with mon := { s.mon with runst := true, stallcnt := 0 } }
    else s)

/-- RUN_EXIT (47_fault_monitor.md R290). -/
def execRunExit (s : State) : Host.Outcome State Fault Refusal :=
  .next
    (if s.mon.runst then
      speedFresh { s with mon := { s.mon with runst := false, stallcnt := 0 } }
    else s)

end Sys2Proof.Machine
end

