-- ==== Sys2Proof/Machine/Pi.lean ====
section
/-! DEFINITION. PI controllers: PI_STEP, PI_RESET, PI_SEED and the writes of KI and OUTMAX (41_pi.md). -/

namespace Sys2Proof.Machine

/-- `imax(KI, OUTMAX)` (41_pi.md R144). -/
def imaxOf (ki outmax : Nat) : Nat :=
  if ki = 0 then 0x7FFFFFFF else min (outmax * 65536 / ki) 0x7FFFFFFF

/-- The integrator after a step: the exact sum, then the clamp (41_pi.md R141). -/
def piStepInteg (p : PiRegs) : Int := clamp (uval p.integ + p.errin.toInt) 0 (uval p.imax)

/-- `PI_STEP` on one instance (41_pi.md R141). -/
def piStepRegs (p : PiRegs) : PiRegs :=
  { p with
    integ := toNonNeg (piStepInteg p)
    out := toNonNeg
      (clamp (fixmul (uval p.kp) p.errin.toInt + fixmul (uval p.ki) (piStepInteg p)) 0
        (uval p.outmax)) }

/-- One of the two products of `PI_STEP` overflows (41_pi.md R141, 60_exceptions.md R301). -/
def piStepOvf (p : PiRegs) : Bool :=
  fixmulOvf (uval p.kp) p.errin.toInt || fixmulOvf (uval p.ki) (piStepInteg p)

/-- `PI_RESET` on one instance (41_pi.md R142). -/
def piResetRegs (p : PiRegs) : PiRegs := { p with integ := 0, out := 0 }

/-- `PI_SEED` on one instance with the operand `ARG` (41_pi.md R143). -/
def piSeedRegs (arg : Word) (p : PiRegs) : PiRegs :=
  { p with
    integ :=
      if p.ki = 0 then 0
      else toNonNeg (clamp (max arg.toInt 0 * 65536 / uval p.ki) 0 (uval p.imax)) }

/-- A write of `KI`: the integrator is rescaled to keep its contribution, then the bound is
recomputed (41_pi.md R145). -/
def piWriteKi (v : Word) (p : PiRegs) : PiRegs :=
  let new := (dropBit31 v).toNat
  let scaled := if new = 0 then p.integ.toNat else p.integ.toNat * 65536 / new * p.ki.toNat / 65536
  let bound := imaxOf new p.outmax.toNat
  { p with
    ki := dropBit31 v
    imax := BitVec.ofNat 31 bound
    integ := BitVec.ofNat 31 (min scaled bound) }

/-- A write of `OUTMAX` (41_pi.md R146). -/
def piWriteOutmax (v : Word) (p : PiRegs) : PiRegs :=
  let bound := imaxOf p.ki.toNat (dropBit31 v).toNat
  { p with
    outmax := dropBit31 v
    imax := BitVec.ofNat 31 bound
    integ := BitVec.ofNat 31 (min p.integ.toNat bound) }

/-- PI_STEP n (41_pi.md R141); an illegal IDX does nothing but `raise BADCMD` (R140). -/
def execPiStep (n : BitVec 4) (s : State) : Host.Outcome State Fault Refusal :=
  match piSelect n with
  | some k => .next ((s.setPi k (piStepRegs (s.pi k))).flagIf (piStepOvf (s.pi k)) .mulovf)
  | none => .next (s.raise .badcmd)

/-- PI_RESET n (41_pi.md R142); an illegal IDX does nothing but `raise BADCMD` (R140). -/
def execPiReset (n : BitVec 4) (s : State) : Host.Outcome State Fault Refusal :=
  match piSelect n with
  | some k => .next (s.setPi k (piResetRegs (s.pi k)))
  | none => .next (s.raise .badcmd)

/-- PI_SEED n (41_pi.md R143); an illegal IDX does nothing but `raise BADCMD` (R140). -/
def execPiSeed (n : BitVec 4) (s : State) : Host.Outcome State Fault Refusal :=
  match piSelect n with
  | some k => .next (s.setPi k (piSeedRegs s.arg (s.pi k)))
  | none => .next (s.raise .badcmd)

end Sys2Proof.Machine
end

