-- ==== Sys2Proof/Machine/Registers.lean ====
section
/-! DEFINITION. The register window: every register with its offset, its read value and its plain
write (10_state.md, 20_memory.md R84, R85, R88). -/

namespace Sys2Proof.Machine

/-- The registers of one PI instance (10_state.md R31). -/
inductive PiReg where
  | kp
  | ki
  | outmax
  | errin
  | integ
  | imax
  | out
  deriving DecidableEq, Repr

/-- The registers of the window (20_memory.md R88). -/
inductive Reg where
  | id
  | ctrl
  | status
  | err
  | fault
  | irqen
  | irqst
  | cmd
  | arg
  | pi (n : Fin 2) (r : PiReg)
  | angle
  | adelta
  | freq
  | pwmfreq
  | pcnt
  | amp
  | vnom
  | vfloor
  | ampcap
  | ampeff
  | dutyA
  | dutyB
  | dutyC
  | phmask
  | htab120 (h : Fin 8)
  | htab60 (h : Fin 8)
  | stab (j : Fin 12)
  | hall
  | cstep
  | floatph
  | skiprst
  | skipcnt
  | latency
  | pwmper
  | avgper
  | lastzc
  | cmtdly
  | sysclk
  | polepairs
  | maxspeed
  | mspeed
  | lastedge
  | spdsamp
  | spdtmo
  | edgeage
  | calgain
  | calofs
  | pkacc
  | ipeak
  | iavg
  | rmsk
  | irms
  | pwrscale
  | power
  | vbus
  | temp
  | tmax
  | vmin
  | vmax
  | iminl
  | imaxl
  | minspeed
  | stallth
  | stallcnt
  deriving DecidableEq, Repr

/-- Offset of a PI register within its instance (10_state.md R31). -/
def piRegOffset : PiReg → Nat
  | .kp => 0x00
  | .ki => 0x04
  | .outmax => 0x08
  | .errin => 0x0C
  | .integ => 0x10
  | .imax => 0x14
  | .out => 0x18

/-- Byte offset of a register in the window (the tables of 10_state.md). -/
def regOffset : Reg → Nat
  | .id => 0x000
  | .ctrl => 0x004
  | .status => 0x008
  | .err => 0x00C
  | .fault => 0x010
  | .irqen => 0x014
  | .irqst => 0x018
  | .cmd => 0x01C
  | .arg => 0x020
  | .pi n r => 0x040 + 0x20 * n.val + piRegOffset r
  | .angle => 0x080
  | .adelta => 0x084
  | .freq => 0x088
  | .pwmfreq => 0x08C
  | .pcnt => 0x090
  | .amp => 0x094
  | .vnom => 0x098
  | .vfloor => 0x09C
  | .ampcap => 0x0A0
  | .ampeff => 0x0A4
  | .dutyA => 0x0A8
  | .dutyB => 0x0AC
  | .dutyC => 0x0B0
  | .phmask => 0x0B4
  | .htab120 h => 0x0C0 + 4 * h.val
  | .htab60 h => 0x0E0 + 4 * h.val
  | .stab j => 0x100 + 4 * j.val
  | .hall => 0x130
  | .cstep => 0x134
  | .floatph => 0x138
  | .skiprst => 0x140
  | .skipcnt => 0x144
  | .latency => 0x148
  | .pwmper => 0x14C
  | .avgper => 0x150
  | .lastzc => 0x154
  | .cmtdly => 0x158
  | .sysclk => 0x160
  | .polepairs => 0x164
  | .maxspeed => 0x168
  | .mspeed => 0x16C
  | .lastedge => 0x170
  | .spdsamp => 0x174
  | .spdtmo => 0x178
  | .edgeage => 0x17C
  | .calgain => 0x180
  | .calofs => 0x184
  | .pkacc => 0x188
  | .ipeak => 0x18C
  | .iavg => 0x190
  | .rmsk => 0x194
  | .irms => 0x198
  | .pwrscale => 0x19C
  | .power => 0x1A0
  | .vbus => 0x1A4
  | .temp => 0x1A8
  | .tmax => 0x1C0
  | .vmin => 0x1C4
  | .vmax => 0x1C8
  | .iminl => 0x1CC
  | .imaxl => 0x1D0
  | .minspeed => 0x1D4
  | .stallth => 0x1D8
  | .stallcnt => 0x1DC

/-- The registers of one PI instance, in the order of their offsets. -/
def piRegList : List PiReg := [.kp, .ki, .outmax, .errin, .integ, .imax, .out]

/-- The global registers, in the order of their offsets (10_state.md section 2). -/
def globalRegs : List Reg := [.id, .ctrl, .status, .err, .fault, .irqen, .irqst, .cmd, .arg]

/-- The PI instances (10_state.md section 3). -/
def piRegs : List Reg := List.append (piRegList.map (Reg.pi 0)) (piRegList.map (Reg.pi 1))

/-- Angle integrator, amplitude, duties and phase mask (10_state.md section 4). -/
def waveRegs : List Reg :=
  [.angle, .adelta, .freq, .pwmfreq, .pcnt, .amp, .vnom, .vfloor, .ampcap, .ampeff, .dutyA, .dutyB,
   .dutyC, .phmask]

/-- The commutation tables (10_state.md section 5). -/
def tableRegs : List Reg :=
  List.append ((List.finRange 8).map Reg.htab120)
    (List.append ((List.finRange 8).map Reg.htab60) ((List.finRange 12).map Reg.stab))

/-- Commutation state and BEMF detector (10_state.md sections 5 and 6). -/
def bemfRegs : List Reg :=
  [.hall, .cstep, .floatph, .skiprst, .skipcnt, .latency, .pwmper, .avgper, .lastzc, .cmtdly]

/-- Speed estimator (10_state.md section 7). -/
def speedRegs : List Reg :=
  [.sysclk, .polepairs, .maxspeed, .mspeed, .lastedge, .spdsamp, .spdtmo, .edgeage]

/-- Current, power and measurement latches (10_state.md section 8). -/
def curRegs : List Reg :=
  [.calgain, .calofs, .pkacc, .ipeak, .iavg, .rmsk, .irms, .pwrscale, .power, .vbus, .temp]

/-- Fault monitor (10_state.md section 9). -/
def monRegs : List Reg :=
  [.tmax, .vmin, .vmax, .iminl, .imaxl, .minspeed, .stallth, .stallcnt]

/-- Every register of the window. -/
def allRegs : List Reg :=
  [globalRegs, piRegs, waveRegs, tableRegs, bemfRegs, speedRegs, curRegs, monRegs].flatten

/-- The register at a byte offset; none for a misaligned offset and for a reserved word
(10_state.md R49, 20_memory.md R82). -/
def regAt (o : Nat) : Option Reg := allRegs.find? fun r => regOffset r == o

/-- The register a host access reaches; none for a bad access: misaligned, not 32 bits, or to a
reserved word (20_memory.md R82). -/
def accessedReg (o : BitVec 10) (size : Nat) : Option Reg := if size = 4 then regAt o.toNat else none

/-- Bits of `CTRL.MODE` (10_state.md R23). -/
def Mode.bits : Mode → BitVec 2
  | .sine => 0
  | .svpwm => 1
  | .trapHall => 2
  | .trapBemf => 3

/-- The mode two bits select (10_state.md R23). -/
def modeOfBits (b : BitVec 2) : Mode :=
  if b = 0 then .sine else if b = 1 then .svpwm else if b = 2 then .trapHall else .trapBemf

/-- Bits of `CTRL.PHCFG` (10_state.md R23). -/
def PhCfg.bits : PhCfg → BitVec 2
  | .one => 0
  | .bridge => 1
  | .three => 2

/-- The configuration after a write of two bits: 3 leaves the old one (10_state.md R23). -/
def phCfgWarl (b : BitVec 2) (old : PhCfg) : PhCfg :=
  if b = 0 then .one else if b = 1 then .bridge else if b = 2 then .three else old

/-- A field placed with its lowest bit at bit `lo` of a word (00_scope.md R1). -/
def place {n : Nat} (lo : Nat) (x : BitVec n) : Word := x.zeroExtend 32 <<< lo

/-- One bit placed at bit `k` of a word. -/
def placeBit (k : Nat) (b : Bool) : Word := place k (BitVec.ofBool b)

/-- `CTRL` as the host reads it (10_state.md R23). -/
def Ctrl.toWord (c : Ctrl) : Word :=
  place 0 c.mode.bits ||| place 2 c.phcfg.bits ||| placeBit 4 c.dir ||| placeBit 5 c.hall60 |||
  placeBit 6 c.buscomp ||| place 8 c.updrate

/-- The fields of `CTRL` after a host write (10_state.md R23, 20_memory.md R85). -/
def Ctrl.write (v : Word) (c : Ctrl) : Ctrl :=
  { mode := modeOfBits (field 0 2 v)
    phcfg := phCfgWarl (field 2 2 v) c.phcfg
    dir := v.getLsbD 4
    hall60 := v.getLsbD 5
    buscomp := v.getLsbD 6
    updrate := field 8 8 v }

/-- `STATUS`, the live view of hidden bits and registers (10_state.md R25). -/
def State.statusWord (s : State) : Word :=
  placeBit 0 s.mon.outen ||| placeBit 1 s.mon.runst ||| placeBit 2 s.spd.skip |||
  placeBit 3 s.spd.seed ||| placeBit 4 s.zc.zcdone ||| placeBit 5 s.zc.zcvalid |||
  placeBit 6 s.mon.wdflag ||| place 8 s.cmt.hall ||| place 12 (BitVec.ofNat 3 s.cmt.cstep.val) |||
  place 16 s.cmt.phmask ||| place 22 s.cmt.floatph

/-- The value of a PI register (10_state.md R31). -/
def readPi (p : PiRegs) : PiReg → Word
  | .kp => p.kp.zeroExtend 32
  | .ki => p.ki.zeroExtend 32
  | .outmax => p.outmax.zeroExtend 32
  | .errin => p.errin
  | .integ => p.integ.zeroExtend 32
  | .imax => p.imax.zeroExtend 32
  | .out => p.out.zeroExtend 32

/-- The 32-bit value of a register, assembled from its fields with reserved fields 0
(20_memory.md R84). -/
def readReg (r : Reg) (s : State) : Word :=
  match r with
  | .id => Config.idValue
  | .ctrl => s.ctrl.toWord
  | .status => s.statusWord
  | .err => s.err.zeroExtend 32
  | .fault => s.fault.zeroExtend 32
  | .irqen => s.irqen.zeroExtend 32
  | .irqst => s.irqst.zeroExtend 32
  | .cmd => 0
  | .arg => s.arg
  | .pi n q => readPi (s.pi n) q
  | .angle => s.wave.angle
  | .adelta => s.wave.adelta
  | .freq => s.wave.freq
  | .pwmfreq => s.wave.pwmfreq
  | .pcnt => s.wave.pcnt
  | .amp => s.wave.amp.zeroExtend 32
  | .vnom => s.wave.vnom.zeroExtend 32
  | .vfloor => s.wave.vfloor.zeroExtend 32
  | .ampcap => s.wave.ampcap.zeroExtend 32
  | .ampeff => s.wave.ampeff.zeroExtend 32
  | .dutyA => s.wave.dutyA.zeroExtend 32
  | .dutyB => s.wave.dutyB.zeroExtend 32
  | .dutyC => s.wave.dutyC.zeroExtend 32
  | .phmask => s.cmt.phmask.zeroExtend 32
  | .htab120 h => (s.cmt.htab120[h.val]).zeroExtend 32
  | .htab60 h => (s.cmt.htab60[h.val]).zeroExtend 32
  | .stab j => (s.cmt.stab[j.val]).zeroExtend 32
  | .hall => s.cmt.hall.zeroExtend 32
  | .cstep => BitVec.ofNat 32 s.cmt.cstep.val
  | .floatph => s.cmt.floatph.zeroExtend 32
  | .skiprst => s.zc.skiprst.zeroExtend 32
  | .skipcnt => s.zc.skipcnt.zeroExtend 32
  | .latency => s.zc.latency
  | .pwmper => s.zc.pwmper
  | .avgper => s.zc.avgper
  | .lastzc => s.zc.lastzc
  | .cmtdly => s.zc.cmtdly
  | .sysclk => s.spd.sysclk
  | .polepairs => s.spd.polepairs.zeroExtend 32
  | .maxspeed => s.spd.maxspeed
  | .mspeed => s.spd.mspeed
  | .lastedge => s.spd.lastedge
  | .spdsamp => s.spd.spdsamp
  | .spdtmo => s.spd.spdtmo.zeroExtend 32
  | .edgeage => s.spd.edgeage.zeroExtend 32
  | .calgain => s.cur.calgain.zeroExtend 32
  | .calofs => s.cur.calofs
  | .pkacc => s.cur.pkacc.zeroExtend 32
  | .ipeak => s.cur.ipeak.zeroExtend 32
  | .iavg => s.cur.iavg.zeroExtend 32
  | .rmsk => s.cur.rmsk.zeroExtend 32
  | .irms => s.cur.irms
  | .pwrscale => s.cur.pwrscale.zeroExtend 32
  | .power => s.cur.power
  | .vbus => s.cur.vbus.zeroExtend 32
  | .temp => s.cur.temp
  | .tmax => s.mon.tmax
  | .vmin => s.mon.vmin.zeroExtend 32
  | .vmax => s.mon.vmax.zeroExtend 32
  | .iminl => s.mon.iminl.zeroExtend 32
  | .imaxl => s.mon.imaxl.zeroExtend 32
  | .minspeed => s.mon.minspeed
  | .stallth => s.mon.stallth.zeroExtend 32
  | .stallcnt => s.mon.stallcnt.zeroExtend 32

/-- A host write of a PI register by its access code (41_pi.md R145 to R147, 10_state.md R31). -/
def writePi (v : Word) (p : PiRegs) : PiReg → PiRegs
  | .kp => { p with kp := dropBit31 v }
  | .ki => piWriteKi v p
  | .outmax => piWriteOutmax v p
  | .errin => { p with errin := v }
  | .integ | .imax | .out => p

/-- A host write of a register other than `CMD` by its access code; RO registers ignore it
(20_memory.md R83, R85). `CMD` stores nothing (10_state.md R29): its write is `execute`. -/
def writeReg (r : Reg) (v : Word) (s : State) : State :=
  match r with
  | .ctrl => { s with ctrl := s.ctrl.write v }
  | .err => { s with err := s.err &&& ~~~(field 0 8 v) }
  | .irqen => { s with irqen := field 0 5 v }
  | .irqst => { s with irqst := s.irqst &&& ~~~(field 0 5 v) }
  | .arg => { s with arg := v }
  | .pi n q => s.setPi n (writePi v (s.pi n) q)
  | .angle => { s with wave := { s.wave with angle := v } }
  | .pwmfreq => { s with wave := { s.wave with pwmfreq := v } }
  | .amp => { s with wave := { s.wave with amp := dropBit31 v } }
  | .vnom => { s with wave := { s.wave with vnom := dropBit31 v } }
  | .vfloor => { s with wave := { s.wave with vfloor := dropBit31 v } }
  | .ampcap => { s with wave := { s.wave with ampcap := dropBit31 v } }
  | .htab120 h => { s with cmt := { s.cmt with htab120 := s.cmt.htab120.set h.val (field 0 6 v) } }
  | .htab60 h => { s with cmt := { s.cmt with htab60 := s.cmt.htab60.set h.val (field 0 6 v) } }
  | .stab j => { s with cmt := { s.cmt with stab := s.cmt.stab.set j.val (field 0 9 v) } }
  | .skiprst => { s with zc := { s.zc with skiprst := field 0 16 v } }
  | .latency => { s with zc := { s.zc with latency := v } }
  | .pwmper => { s with zc := { s.zc with pwmper := v } }
  | .avgper => { s with zc := { s.zc with avgper := v } }
  | .sysclk => { s with spd := { s.spd with sysclk := v } }
  | .polepairs => { s with spd := { s.spd with polepairs := field 0 8 v } }
  | .maxspeed => { s with spd := { s.spd with maxspeed := v } }
  | .spdtmo => { s with spd := { s.spd with spdtmo := field 0 16 v } }
  | .calgain => { s with cur := { s.cur with calgain := dropBit31 v } }
  | .calofs => { s with cur := { s.cur with calofs := v } }
  | .rmsk => { s with cur := { s.cur with rmsk := dropBit31 v } }
  | .pwrscale => { s with cur := { s.cur with pwrscale := dropBit31 v } }
  | .tmax => { s with mon := { s.mon with tmax := v } }
  | .vmin => { s with mon := { s.mon with vmin := dropBit31 v } }
  | .vmax => { s with mon := { s.mon with vmax := dropBit31 v } }
  | .iminl => { s with mon := { s.mon with iminl := dropBit31 v } }
  | .imaxl => { s with mon := { s.mon with imaxl := dropBit31 v } }
  | .minspeed => { s with mon := { s.mon with minspeed := v } }
  | .stallth => { s with mon := { s.mon with stallth := field 0 16 v } }
  | .id | .status | .fault | .cmd | .adelta | .freq | .pcnt | .ampeff | .dutyA | .dutyB | .dutyC
  | .phmask | .hall | .cstep | .floatph | .skipcnt | .lastzc | .cmtdly | .mspeed | .lastedge
  | .spdsamp | .edgeage | .pkacc | .ipeak | .iavg | .irms | .power | .vbus | .temp | .stallcnt => s

end Sys2Proof.Machine
end

