-- ==== Sys2Proof/Machine/Wave.lean ====
section
/-! DEFINITION. Angle integrator and waveform synthesizer: ANG_RESET, ANG_SETFREQ, WAVE_UPDATE and
EV_PWM (42_waveform.md). -/

namespace Sys2Proof.Machine

/-- `QSIN[0..47]` (42_waveform.md R167). -/
def qsinLow : List Int :=
  [0, 1072, 2144, 3216, 4286, 5356, 6424, 7490] ++
  [8554, 9616, 10676, 11732, 12785, 13835, 14882, 15924] ++
  [16962, 17995, 19024, 20048, 21066, 22078, 23085, 24086] ++
  [25080, 26067, 27047, 28020, 28986, 29944, 30893, 31835] ++
  [32768, 33692, 34607, 35513, 36410, 37297, 38173, 39040] ++
  [39896, 40741, 41576, 42399, 43211, 44011, 44800, 45577]

/-- `QSIN[48..96]` (42_waveform.md R167). -/
def qsinHigh : List Int :=
  [46341, 47093, 47832, 48559, 49273, 49973, 50660, 51333] ++
  [51993, 52639, 53271, 53888, 54491, 55080, 55653, 56212] ++
  [56756, 57284, 57798, 58295, 58777, 59244, 59694, 60129] ++
  [60547, 60950, 61336, 61705, 62058, 62394, 62714, 63017] ++
  [63303, 63572, 63824, 64059, 64277, 64477, 64661, 64827] ++
  [64975, 65107, 65220, 65317, 65396, 65457, 65501, 65527, 65536]

/-- The quarter-wave list `QSIN` (42_waveform.md R167). -/
def qsin (k : Nat) : Int := if k < 48 then qsinLow.getD k 0 else qsinHigh.getD (k - 48) 0

/-- The half wave by symmetry, for indices 0 to 192 (42_waveform.md R167). -/
def sinHalf (i : Nat) : Int := if i ≤ 96 then qsin i else qsin (192 - i)

/-- The sine ROM `SIN[i]` (42_waveform.md R167, 10_state.md R48). -/
def sinRom (i : Nat) : Int := if i ≤ 192 then sinHalf i else -sinHalf (i - 192)

/-- `adelta(f, p)` (42_waveform.md R161). -/
def adeltaOf (f p : Nat) : Nat := f * 65536 / p % 4294967296

/-- `ampeff()` (42_waveform.md R166). -/
def ampeffOf (buscomp : Bool) (w : WaveRegs) (vbus : NonNeg) : NonNeg :=
  if buscomp then
    BitVec.ofNat 31
      (min (w.amp.toNat * w.vnom.toNat / max (max vbus.toNat w.vfloor.toNat) 1) w.ampcap.toNat)
  else w.amp

/-- The index of phase A (42_waveform.md R168). -/
def indexA (angle : Word) : Nat := 3 * angle.toNat / 33554432

/-- The index of phase B, if the configuration uses it (42_waveform.md R168). -/
def indexB (cfg : PhCfg) (dir : Bool) (i : Nat) : Option Nat :=
  match cfg with
  | .one => none
  | .bridge => some ((i + 192) % 384)
  | .three => some ((i + if dir then 128 else 256) % 384)

/-- The index of phase C, if the configuration uses it (42_waveform.md R168). -/
def indexC (cfg : PhCfg) (dir : Bool) (i : Nat) : Option Nat :=
  match cfg with
  | .one => none
  | .bridge => none
  | .three => some ((i + if dir then 256 else 128) % 384)

/-- The scaled sine value of a phase; the product never overflows (42_waveform.md R169). -/
def phaseValue (ampeff : NonNeg) (i : Nat) : Int := fixmul (sinRom i) (uval ampeff)

/-- Clip to [-1, 1] and map to a duty (42_waveform.md R169). -/
def dutyOf (v : Int) : Duty := BitVec.ofInt 17 ((clamp v (-65536) 65536 + 65536) / 2)

/-- The sine duty of a used phase, 0 for an unused one (42_waveform.md R169). -/
def sineDuty (ampeff : NonNeg) (i : Option Nat) : Duty :=
  match i with
  | some i => dutyOf (phaseValue ampeff i)
  | none => 0

/-- Three duties. -/
structure Duties where
  a : Duty
  b : Duty
  c : Duty
  deriving DecidableEq, Repr

/-- Plain sine duties (42_waveform.md R169). -/
def sineDuties (c : Ctrl) (angle : Word) (ampeff : NonNeg) : Duties :=
  { a := sineDuty ampeff (some (indexA angle))
    b := sineDuty ampeff (indexB c.phcfg c.dir (indexA angle))
    c := sineDuty ampeff (indexC c.phcfg c.dir (indexA angle)) }

/-- The value of a phase for the space-vector offset; an unused phase has none in this mode. -/
def phaseValueOf (ampeff : NonNeg) (i : Option Nat) : Int :=
  match i with
  | some i => phaseValue ampeff i
  | none => 0

/-- The min-max zero-sequence offset (42_waveform.md R170). -/
def svOffset (a b c : Int) : Int := -((max (max a b) c + min (min a b) c) / 2)

/-- Space-vector duties (42_waveform.md R170). -/
def svDuties (c : Ctrl) (angle : Word) (ampeff : NonNeg) : Duties :=
  let va := phaseValue ampeff (indexA angle)
  let vb := phaseValueOf ampeff (indexB c.phcfg c.dir (indexA angle))
  let vc := phaseValueOf ampeff (indexC c.phcfg c.dir (indexA angle))
  { a := dutyOf (va + svOffset va vb vc)
    b := dutyOf (vb + svOffset va vb vc)
    c := dutyOf (vc + svOffset va vb vc) }

/-- Trapezoid duties: the effective amplitude clipped to 1.0 on all three (42_waveform.md R171). -/
def trapDuties (ampeff : NonNeg) : Duties :=
  let d := BitVec.ofNat 17 (min ampeff.toNat 0x10000)
  { a := d, b := d, c := d }

/-- The mode is SINE or SVPWM (42_waveform.md R165). -/
def Mode.isSine : Mode → Bool
  | .sine | .svpwm => true
  | .trapHall | .trapBemf => false

/-- The duties of a waveform update (42_waveform.md R165, R169 to R171). -/
def dutiesOf (c : Ctrl) (angle : Word) (ampeff : NonNeg) : Duties :=
  match c.mode with
  | .sine => sineDuties c angle ampeff
  | .svpwm => if c.phcfg = .three then svDuties c angle ampeff else sineDuties c angle ampeff
  | .trapHall | .trapBemf => trapDuties ampeff

/-- The angle after `n` PWM periods, modulo one revolution (42_waveform.md R165, 00_scope.md R3). -/
def advanceAngle (angle adelta : Word) (n : Nat) : Word :=
  BitVec.ofNat 32 (angle.toNat + adelta.toNat * n)

/-- The registers a waveform update writes: angle, effective amplitude, duties
(42_waveform.md R165). -/
def waveRegsUpdate (n : Nat) (s : State) : WaveRegs :=
  let angle := advanceAngle s.wave.angle s.wave.adelta n
  let ampeff := ampeffOf s.ctrl.buscomp s.wave s.cur.vbus
  let d := dutiesOf s.ctrl angle ampeff
  { s.wave with angle := angle, ampeff := ampeff, dutyA := d.a, dutyB := d.b, dutyC := d.c }

/-- The update ends an electrical half-cycle: in the sine modes, bit 31 of the angle changes
(42_waveform.md R172). -/
def halfCycleEnds (n : Nat) (s : State) : Bool :=
  s.ctrl.mode.isSine &&
    (advanceAngle s.wave.angle s.wave.adelta n).msb != s.wave.angle.msb

/-- `WaveUpdate(n)` (42_waveform.md R165); the window close sees the new `AMPEFF`. -/
def waveUpdate (n : Nat) (s : State) : State :=
  let t := { s with wave := waveRegsUpdate n s }
  (if halfCycleEnds n s then windowClose t else t).setIrq .upd

/-- ANG_RESET (42_waveform.md R160). -/
def execAngReset (s : State) : Host.Outcome State Fault Refusal :=
  .next { s with wave := { s.wave with angle := 0, pcnt := 0 } }

/-- ANG_SETFREQ (42_waveform.md R162). -/
def execAngSetfreq (s : State) : Host.Outcome State Fault Refusal :=
  .next <|
    if s.wave.pwmfreq = 0 then
      State.flag .div0 { s with wave := { s.wave with freq := s.arg, adelta := 0 } }
    else
      { s with
        wave := { s.wave with
          freq := s.arg
          adelta := BitVec.ofNat 32 (adeltaOf s.arg.toNat s.wave.pwmfreq.toNat) } }

/-- WAVE_UPDATE (42_waveform.md R173). -/
def execWaveUpdate (s : State) : Host.Outcome State Fault Refusal := .next (waveUpdate 0 s)

/-- The count of PWM periods since the last update after `c` more (42_waveform.md R164). -/
def countPeriods (pcnt c : Nat) : Nat := min (pcnt + c) 0xFFFFFFFF

/-- EV_PWM (42_waveform.md R164); the environment never presents `C = 0` and the model refuses it
(30_encoding.md R105). -/
def execEvPwm (c : Word) (s : State) : Host.Outcome State Fault Refusal :=
  if c = 0 then .refused .malformedEvent
  else
    let n := countPeriods s.wave.pcnt.toNat c.toNat
    let t := { s with pend.pwm := 0, wave.pcnt := BitVec.ofNat 32 n }
    if s.ctrl.updrate.toNat + 1 ≤ n then
      let u := waveUpdate n t
      .next { u with wave := { u.wave with pcnt := 0 } }
    else .next t

end Sys2Proof.Machine
end

