-- ==== Sys2Proof/Machine/Access.lean ====
section
/-! DEFINITION. Dispatch family: NOP, the execution of command words, REG_READ and REG_WRITE
(40_dispatch.md, 30_encoding.md R101). -/

namespace Sys2Proof.Machine

/-- NOP: no state changes (40_dispatch.md R120). -/
def execNop (s : State) : Host.Outcome State Fault Refusal := .next s

/-- The meaning of a command (30_encoding.md R101, R103). Events and host accesses are no commands:
the host cannot forge them (R106). -/
def runCommand (i : Instr) (s : State) : Host.Outcome State Fault Refusal :=
  match i with
  | .nop => execNop s
  | .piStep n => execPiStep n s
  | .piReset n => execPiReset n s
  | .piSeed n => execPiSeed n s
  | .angReset => execAngReset s
  | .angSetfreq => execAngSetfreq s
  | .waveUpdate => execWaveUpdate s
  | .cmtHall => execCmtHall s
  | .cmtStepset k => execCmtStepset k s
  | .cmtStepadv => execCmtStepadv s
  | .zcReset => execZcReset s
  | .spdReset => execSpdReset s
  | .curReset => execCurReset s
  | .faultClear => execFaultClear s
  | .estop => execEstop s
  | .outOn => execOutOn s
  | .outOff => execOutOff s
  | .runEnter => execRunEnter s
  | .runExit => execRunExit s
  | .evPwm _ | .evAdc _ _ _ _ _ | .evHall _ _ | .evCmt | .evTick | .evWdog | .evAdcerr
  | .regRead _ _ | .regWrite _ _ _ => .next (s.raise .badcmd)

/-- `execute(w)`: the command a word written to `CMD` selects, or `raise BADCMD`
(30_encoding.md R101, R106). -/
def execute (w : Word) (s : State) : Host.Outcome State Fault Refusal :=
  match decodeCommand w with
  | .ok i => runCommand i s
  | .error _ => .next (s.raise .badcmd)

/-- REG_READ (40_dispatch.md R121): the value goes to the bus and no state of the block changes
(20_memory.md R84); a bad access reads 0 and raises BUSERR (R82). -/
def execRegRead (o : BitVec 10) (size : Nat) (s : State) : Host.Outcome State Fault Refusal :=
  match accessedReg o size with
  | some r => .next { s with busData := some (readReg r s) }
  | none => .next (State.raise .buserr { s with busData := some 0 })

/-- REG_WRITE (40_dispatch.md R122): a write of `CMD` executes the word, any other register is
written by its access code (20_memory.md R85); a bad access raises BUSERR (R82). -/
def execRegWrite (o : BitVec 10) (size : Nat) (v : Word) (s : State) :
    Host.Outcome State Fault Refusal :=
  match accessedReg o size with
  | some r => if r = .cmd then execute v s else .next (writeReg r v s)
  | none => .next (s.raise .buserr)

end Sys2Proof.Machine
end

