-- ==== Sys2Proof/Machine/Dispatch.lean ====
section
/-! DEFINITION. The dispatch: one arm for every operation, each a direct call of its meaning. -/

namespace Sys2Proof.Machine

def exec (i : Instr) (s : State) : Host.Outcome State Fault Refusal :=
  match i with
  | .nop => Sys2Proof.Machine.execNop s
  | .piStep n => Sys2Proof.Machine.execPiStep n s
  | .piReset n => Sys2Proof.Machine.execPiReset n s
  | .piSeed n => Sys2Proof.Machine.execPiSeed n s
  | .angReset => Sys2Proof.Machine.execAngReset s
  | .angSetfreq => Sys2Proof.Machine.execAngSetfreq s
  | .waveUpdate => Sys2Proof.Machine.execWaveUpdate s
  | .cmtHall => Sys2Proof.Machine.execCmtHall s
  | .cmtStepset k => Sys2Proof.Machine.execCmtStepset k s
  | .cmtStepadv => Sys2Proof.Machine.execCmtStepadv s
  | .zcReset => Sys2Proof.Machine.execZcReset s
  | .spdReset => Sys2Proof.Machine.execSpdReset s
  | .curReset => Sys2Proof.Machine.execCurReset s
  | .faultClear => Sys2Proof.Machine.execFaultClear s
  | .estop => Sys2Proof.Machine.execEstop s
  | .outOn => Sys2Proof.Machine.execOutOn s
  | .outOff => Sys2Proof.Machine.execOutOff s
  | .runEnter => Sys2Proof.Machine.execRunEnter s
  | .runExit => Sys2Proof.Machine.execRunExit s
  | .evPwm c => Sys2Proof.Machine.execEvPwm c s
  | .evAdc ic vbemf vb tp ts => Sys2Proof.Machine.execEvAdc ic vbemf vb tp ts s
  | .evHall h ts => Sys2Proof.Machine.execEvHall h ts s
  | .evCmt => Sys2Proof.Machine.execEvCmt s
  | .evTick => Sys2Proof.Machine.execEvTick s
  | .evWdog => Sys2Proof.Machine.execEvWdog s
  | .evAdcerr => Sys2Proof.Machine.execEvAdcerr s
  | .regRead o size => Sys2Proof.Machine.execRegRead o size s
  | .regWrite o size v => Sys2Proof.Machine.execRegWrite o size v s

end Sys2Proof.Machine
end

