-- ==== Sys2Proof/Machine/Step.lean ====
section
/-! DEFINITION. One step of the block: the next inputs arrive, then the arbiter's operation is
performed, if any is ready. -/

namespace Sys2Proof.Machine

/-- The operation the arbiter selects is performed; with none ready, or while reset is asserted, the
block waits (20_memory.md R90, R91, 70_reset_and_hazards.md R320, R322). -/
def perform (s : State) : Host.Outcome State Fault Refusal :=
  if s.inReset then .next s
  else
    match select s with
    | some (i, t) => exec i t
    | none => .next s

/-- One step: arrivals land between operations only (20_memory.md R87, log 1). -/
def step (s : State) : Host.Outcome State Fault Refusal :=
  match arriveAll (s.inputs.headD []) (beginStep s) with
  | .ok t => perform t
  | .error r => .refused r

/-- The operation whose bits are `w` is what the next step performs. -/
def State.withFetchWord (s : State) (nbits w : Nat) : State :=
  presentWords (tablePresentation nbits w).1 (tablePresentation nbits w).2 s

end Sys2Proof.Machine
end

