-- ==== Sys2Proof/Machine/Assembler.lean ====
section
/-! DEFINITION. The assembler's lines and pseudo-instructions as host accesses (30_encoding.md R109,
R110), and the host's view of the window's addresses (20_memory.md R80). -/

namespace Sys2Proof.Machine

/-- `WR <reg>, <value>` (30_encoding.md R109). -/
def lineWr (r : Reg) (v : Word) : Instr := .regWrite (BitVec.ofNat 10 (regOffset r)) 4 v

/-- `RD <reg>` (30_encoding.md R109). -/
def lineRd (r : Reg) : Instr := .regRead (BitVec.ofNat 10 (regOffset r)) 4

/-- `CMD <MNEMONIC> [<idx>]`: the command's word is written to `CMD` (30_encoding.md R109). -/
def lineCmd (i : Instr) : Instr := lineWr .cmd ((encode i).headD 0)

/-- The pseudo-instructions (30_encoding.md R110). -/
inductive Pseudo where
  | pistep (n : Fin 2) (e : Word)
  | seed (n : Fin 2) (y : Word)
  | setfreq (f : Word)
  | setki (n : Fin 2) (k : Word)
  | clrerr
  | clrirq
  | start
  deriving DecidableEq, Repr

/-- The IDX of a PI instance (30_encoding.md R102). -/
def piIdx (n : Fin 2) : BitVec 4 := BitVec.ofNat 4 n.val

/-- The exact expansion of a pseudo-instruction (30_encoding.md R110). -/
def Pseudo.expand : Pseudo → List Instr
  | .pistep n e => [lineWr (.pi n .errin) e, lineCmd (.piStep (piIdx n))]
  | .seed n y => [lineWr .arg y, lineCmd (.piSeed (piIdx n))]
  | .setfreq f => [lineWr .arg f, lineCmd .angSetfreq]
  | .setki n k => [lineWr (.pi n .ki) k]
  | .clrerr => [lineWr .err 0xFF#32]
  | .clrirq => [lineWr .irqst 0x1F#32]
  | .start => [lineCmd .angReset, lineCmd (.piReset 0), lineCmd .outOn, lineCmd .runEnter]

/-- Operations performed one after another, in the order given (20_memory.md R90). -/
def execAll : List Instr → State → Host.Outcome State Fault Refusal
  | [], s => .next s
  | i :: is, s =>
    match exec i s with
    | .next t => execAll is t
    | .fault r => .fault r
    | .refused r => .refused r

/-- The window offset of a host address: none outside the window (20_memory.md R80); the address
width of 32 bits is the model's (DESIGN CHOICE, log 12). -/
def windowOffset (addr : Word) : Option (BitVec 10) :=
  if field 10 22 addr = Config.windowIndex then some (field 0 10 addr) else none

end Sys2Proof.Machine
end

