-- ==== Sys2Proof/Safety.lean ====
section
/-! DEFINITION. What the spec promises of every state the block can be in: the invariants of
10_state.md R32, 41_pi.md R144 and R149, 42_waveform.md R176, 43_commutation.md R202 and
47_fault_monitor.md R291. -/

namespace Sys2Proof.Machine

/-- A PI instance's integrator is within its bound, and the bound is the function of R144
(10_state.md R32, 41_pi.md R144, R149). -/
def PiRegs.Inv (p : PiRegs) : Prop :=
  p.integ.toNat ≤ p.imax.toNat ∧ p.imax.toNat = imaxOf p.ki.toNat p.outmax.toNat

/-- Every duty is in [0, 0x10000] (42_waveform.md R176). -/
def WaveRegs.Inv (w : WaveRegs) : Prop :=
  w.dutyA.toNat ≤ 0x10000 ∧ w.dutyB.toNat ≤ 0x10000 ∧ w.dutyC.toNat ≤ 0x10000

/-- No leg of the applied phase mask has both switches on (43_commutation.md R202). -/
def CmtRegs.Inv (c : CmtRegs) : Prop := maskIllegal c.phmask = false

/-- While a fault is latched the outputs are off and the block does not run
(47_fault_monitor.md R291). -/
def State.Tripped (s : State) : Prop :=
  s.fault ≠ 0 → s.mon.outen = false ∧ s.mon.runst = false

/-- The invariants that every operation keeps. -/
structure State.Inv (s : State) : Prop where
  pi0 : s.pi0.Inv
  pi1 : s.pi1.Inv
  duties : s.wave.Inv
  mask : s.cmt.Inv
  tripped : s.Tripped

end Sys2Proof.Machine
end

