-- ==== Sys2Proof/Certificates/Slice0/Obligations.lean ====
section
/-! DEFINITION. The statements about the model, taken from the numbered rules of spec/. A statement
that names a sub-operation of the model (`windowClose`, `speedEdge`, `fixmul`, …) relies on the
statement about that sub-operation. -/

open Sys2Proof Sys2Proof.Machine

/-! ## Shared vocabulary -/

/-- `flag X` for the error bits `b`: they are set and so is `IRQST.ERR`, bit 4 (00_scope.md R7). -/
def Sys2Proof.Machine.withErr (b : BitVec 8) (s : State) : State :=
  { s with err := s.err ||| b, irqst := s.irqst ||| 0x10#5 }

/-- The reserved words of the window (10_state.md R49). -/
def Sys2Proof.Machine.reservedOffset (o : Nat) : Prop :=
  (0x024 ≤ o ∧ o < 0x040) ∨ (0x05C ≤ o ∧ o < 0x060) ∨ (0x07C ≤ o ∧ o < 0x080) ∨
  (0x0B8 ≤ o ∧ o < 0x0C0) ∨ (0x13C ≤ o ∧ o < 0x140) ∨ (0x15C ≤ o ∧ o < 0x160) ∨
  (0x1AC ≤ o ∧ o < 0x1C0) ∨ 0x1E0 ≤ o

/-- What every step leaves behind of the script and of the last operation's outputs (log 1, log 4). -/
def Sys2Proof.Machine.stepped (s : State) : State :=
  { s with inputs := s.inputs.tail, busData := none, cmtarm := none }

/-- The command words that R101 accepts: RSV is 0, OP is in the table of R103 and IDX is legal (R102). -/
def Sys2Proof.Machine.legalCommandWord (w : Word) : Prop :=
  w.toNat / 4096 = 0 ∧
  ((w.toNat % 256 ∈ [0x00, 0x10, 0x11, 0x12, 0x20, 0x22, 0x23, 0x30, 0x31, 0x40, 0x41, 0x42, 0x43,
      0x44, 0x45] ∧ w.toNat / 256 = 0) ∨
    (w.toNat % 256 ∈ [0x01, 0x02, 0x03] ∧ w.toNat / 256 < 2) ∨
    (w.toNat % 256 = 0x21 ∧ w.toNat / 256 < 6))

/-- The operations that end a step's wait for its crossing: a step change or ZC_RESET, as a command, as
its word written to `CMD`, or as EV_CMT (45_bemf.md R231, R232). -/
def Sys2Proof.Machine.rearmsDetector (i : Instr) : Prop :=
  i = .evCmt ∨ ∃ j : Instr, (j = .cmtStepadv ∨ j = .zcReset ∨ ∃ k, j = .cmtStepset k) ∧
    (i = j ∨ i = lineCmd j)

/-- The operations that take the peak back or change what it is compared with: CUR_RESET, its word
written to `CMD`, and host writes of CALGAIN, CALOFS and IMAXL (46_current.md R253, R256). -/
def Sys2Proof.Machine.changesPeakTest (i : Instr) : Prop :=
  i = .curReset ∨ i = lineCmd .curReset ∨
    ∃ v, i = .regWrite 0x180 4 v ∨ i = .regWrite 0x184 4 v ∨ i = .regWrite 0x1D0 4 v

/-- How many operations of a run replace IPEAK or lower PKACC. Among operations that are not
`changesPeakTest` only a window close does either, so the windows closed are at least as many
(46_current.md R252). -/
def Sys2Proof.Machine.peakLosses : List Instr → State → Nat
  | [], _ => 0
  | i :: is, s =>
    match exec i s with
    | .next t =>
      (if t.cur.ipeak ≠ s.cur.ipeak ∨ t.cur.pkacc.toNat < s.cur.pkacc.toNat then 1 else 0) +
        peakLosses is t
    | .fault _ => 0
    | .refused _ => 0

/-! ## Encoding -/

/-- No bit of an encoding is dropped: every well-formed operation's words decode to it, whatever
words follow (30_encoding.md sections 1 to 3). -/
def Obligations.DecodeEncodeRoundTrip : Prop :=
  ∀ (i : Instr) (rest : List Word), i.wellFormed = true →
    decode i.format (encode i ++ rest) = .ok (i, rest)

/-- Every operation a port's decoder accepts belongs to that port and encodes to exactly the words
read: no two word lists of one port mean the same operation, and no stray bit is accepted. -/
def Obligations.EncodeDecodeRoundTrip : Prop :=
  ∀ (f : Format) (ws : List Word) (i : Instr) (rest : List Word),
    decode f ws = .ok (i, rest) → i.format = f ∧ encode i ++ rest = ws

/-- Words written out from the tables of 30_encoding.md R100, R104 and R107. -/
def Obligations.SpecWordsDecode : Prop :=
  decode .command [0x00000101#32] = .ok (.piStep 1, []) ∧
  decode .command [0x00000521#32] = .ok (.cmtStepset 5, []) ∧
  decode .event [0x0BB800E1#32, 0#32, 0x00180000#32, 0x00190000#32, 1000#32] =
    .ok (.evAdc 3000 0 0x00180000 0x00190000 1000, []) ∧
  decode .event [0x000500E2#32, 0x0007A508#32] = .ok (.evHall 5 0x0007A508, []) ∧
  decode .access [0x8000001C#32, 0x00000201#32] = .ok (.regWrite 0x01C 4 0x00000201, []) ∧
  decode .access [0x00000058#32] = .ok (.regRead 0x058 4, [])

/-- A record with a nonzero bit outside its fields, or an EV_PWM with `C = 0`, is refused when it
arrives, and EV_PWM has no meaning for `C = 0` (30_encoding.md R105; the refusal is log 8, the script
of arrivals log 1). -/
def Obligations.MalformedEventRecordsRefused : Prop :=
  (∀ s : State, exec (.evPwm 0) s = .refused .malformedEvent) ∧
  ∀ (h : Word) (payload : List Word) (s : State),
    (h.extractLsb' 8 8 ≠ 0 ∨
      (h.extractLsb' 0 8 ≠ 0xE1#8 ∧ h.extractLsb' 19 13 ≠ 0) ∨
      (h.extractLsb' 0 8 ≠ 0xE1#8 ∧ h.extractLsb' 0 8 ≠ 0xE2#8 ∧ h.extractLsb' 16 16 ≠ 0) ∨
      (h = 0x000000E0#32 ∧ payload = [0])) →
    s.inReset = false → s.inputs.headD [] = [.event (h :: payload)] →
    step s = .refused .malformedEvent

/-! ## Host accesses -/

/-- A bad access touches no register, a read returns 0, and `BUSERR` is raised (20_memory.md R82; the
word a read returns stands in `busData`, log 4). -/
def Obligations.BadAccessRaisesBuserr : Prop :=
  ∀ (o : BitVec 10) (size : Nat) (v : Word) (s : State),
    (o.toNat % 4 ≠ 0 ∨ size ≠ 4 ∨ reservedOffset o.toNat) →
    exec (.regRead o size) s = .next (withErr 0x40 { s with busData := some 0 }) ∧
    exec (.regWrite o size v) s = .next (withErr 0x40 s)

/-- A good read returns the value of the register at the offset and has no side effect; every
register's value is given, but for CTRL and STATUS (`CtrlWriteSetsFields`, `StatusShowsItsSources`)
(20_memory.md R84, R88, 10_state.md sections 2 to 9; `busData` is log 4). -/
def Obligations.GoodReadReturnsRegister : Prop :=
  (∀ (o : BitVec 10) (s : State), o.toNat % 4 = 0 → ¬ reservedOffset o.toNat →
    ∃ r : Reg, regOffset r = o.toNat ∧
      exec (.regRead o 4) s = .next { s with busData := some (readReg r s) }) ∧
  (∀ s : State, ∀ p ∈ [(0x000#10, 0x4D430001#32), (0x00C#10, s.err.zeroExtend 32),
      (0x010#10, s.fault.zeroExtend 32), (0x014#10, s.irqen.zeroExtend 32),
      (0x018#10, s.irqst.zeroExtend 32), (0x01C#10, 0#32), (0x020#10, s.arg),
      (0x040#10, s.pi0.kp.zeroExtend 32), (0x044#10, s.pi0.ki.zeroExtend 32),
      (0x048#10, s.pi0.outmax.zeroExtend 32), (0x04C#10, s.pi0.errin),
      (0x050#10, s.pi0.integ.zeroExtend 32), (0x054#10, s.pi0.imax.zeroExtend 32),
      (0x058#10, s.pi0.out.zeroExtend 32),
      (0x060#10, s.pi1.kp.zeroExtend 32), (0x064#10, s.pi1.ki.zeroExtend 32),
      (0x068#10, s.pi1.outmax.zeroExtend 32), (0x06C#10, s.pi1.errin),
      (0x070#10, s.pi1.integ.zeroExtend 32), (0x074#10, s.pi1.imax.zeroExtend 32),
      (0x078#10, s.pi1.out.zeroExtend 32),
      (0x080#10, s.wave.angle), (0x084#10, s.wave.adelta), (0x088#10, s.wave.freq),
      (0x08C#10, s.wave.pwmfreq), (0x090#10, s.wave.pcnt), (0x094#10, s.wave.amp.zeroExtend 32),
      (0x098#10, s.wave.vnom.zeroExtend 32), (0x09C#10, s.wave.vfloor.zeroExtend 32),
      (0x0A0#10, s.wave.ampcap.zeroExtend 32), (0x0A4#10, s.wave.ampeff.zeroExtend 32),
      (0x0A8#10, s.wave.dutyA.zeroExtend 32), (0x0AC#10, s.wave.dutyB.zeroExtend 32),
      (0x0B0#10, s.wave.dutyC.zeroExtend 32), (0x0B4#10, s.cmt.phmask.zeroExtend 32),
      (0x130#10, s.cmt.hall.zeroExtend 32), (0x134#10, BitVec.ofNat 32 s.cmt.cstep.val),
      (0x138#10, s.cmt.floatph.zeroExtend 32), (0x140#10, s.zc.skiprst.zeroExtend 32),
      (0x144#10, s.zc.skipcnt.zeroExtend 32), (0x148#10, s.zc.latency), (0x14C#10, s.zc.pwmper),
      (0x150#10, s.zc.avgper), (0x154#10, s.zc.lastzc), (0x158#10, s.zc.cmtdly),
      (0x160#10, s.spd.sysclk), (0x164#10, s.spd.polepairs.zeroExtend 32),
      (0x168#10, s.spd.maxspeed), (0x16C#10, s.spd.mspeed), (0x170#10, s.spd.lastedge),
      (0x174#10, s.spd.spdsamp), (0x178#10, s.spd.spdtmo.zeroExtend 32),
      (0x17C#10, s.spd.edgeage.zeroExtend 32), (0x180#10, s.cur.calgain.zeroExtend 32),
      (0x184#10, s.cur.calofs), (0x188#10, s.cur.pkacc.zeroExtend 32),
      (0x18C#10, s.cur.ipeak.zeroExtend 32), (0x190#10, s.cur.iavg.zeroExtend 32),
      (0x194#10, s.cur.rmsk.zeroExtend 32), (0x198#10, s.cur.irms),
      (0x19C#10, s.cur.pwrscale.zeroExtend 32), (0x1A0#10, s.cur.power),
      (0x1A4#10, s.cur.vbus.zeroExtend 32), (0x1A8#10, s.cur.temp), (0x1C0#10, s.mon.tmax),
      (0x1C4#10, s.mon.vmin.zeroExtend 32), (0x1C8#10, s.mon.vmax.zeroExtend 32),
      (0x1CC#10, s.mon.iminl.zeroExtend 32), (0x1D0#10, s.mon.imaxl.zeroExtend 32),
      (0x1D4#10, s.mon.minspeed), (0x1D8#10, s.mon.stallth.zeroExtend 32),
      (0x1DC#10, s.mon.stallcnt.zeroExtend 32)],
    exec (.regRead p.1 4) s = .next { s with busData := some p.2 }) ∧
  (∀ (s : State) (h : Fin 8),
    exec (.regRead (BitVec.ofNat 10 (0x0C0 + 4 * h.val)) 4) s =
      .next { s with busData := some ((s.cmt.htab120[h.val]).zeroExtend 32) } ∧
    exec (.regRead (BitVec.ofNat 10 (0x0E0 + 4 * h.val)) 4) s =
      .next { s with busData := some ((s.cmt.htab60[h.val]).zeroExtend 32) }) ∧
  (∀ (s : State) (j : Fin 12),
    exec (.regRead (BitVec.ofNat 10 (0x100 + 4 * j.val)) 4) s =
      .next { s with busData := some ((s.cmt.stab[j.val]).zeroExtend 32) })

/-- `STATUS` is a view: each field is its source, and the bits between fields read 0
(10_state.md R25). -/
def Obligations.StatusShowsItsSources : Prop :=
  ∀ s : State, ∃ w : Word, exec (.regRead 0x008 4) s = .next { s with busData := some w } ∧
    w.getLsbD 0 = s.mon.outen ∧ w.getLsbD 1 = s.mon.runst ∧ w.getLsbD 2 = s.spd.skip ∧
    w.getLsbD 3 = s.spd.seed ∧ w.getLsbD 4 = s.zc.zcdone ∧ w.getLsbD 5 = s.zc.zcvalid ∧
    w.getLsbD 6 = s.mon.wdflag ∧ w.getLsbD 7 = false ∧ w.extractLsb' 8 3 = s.cmt.hall ∧
    w.getLsbD 11 = false ∧ (w.extractLsb' 12 3).toNat = s.cmt.cstep.val ∧ w.getLsbD 15 = false ∧
    w.extractLsb' 16 6 = s.cmt.phmask ∧ w.extractLsb' 22 2 = s.cmt.floatph ∧
    w.extractLsb' 24 8 = 0#8

/-- A write of `CTRL` changes its fields and nothing else; PHCFG 3 leaves PHCFG unchanged; reserved
bits read 0 (10_state.md R23). -/
def Obligations.CtrlWriteSetsFields : Prop :=
  ∀ (v : Word) (s : State), ∃ c : Ctrl,
    exec (.regWrite 0x004 4 v) s = .next { s with ctrl := c } ∧
    c.mode.bits = v.extractLsb' 0 2 ∧
    c.phcfg.bits = (if v.extractLsb' 2 2 = 3#2 then s.ctrl.phcfg.bits else v.extractLsb' 2 2) ∧
    c.dir = v.getLsbD 4 ∧ c.hall60 = v.getLsbD 5 ∧ c.buscomp = v.getLsbD 6 ∧
    c.updrate = v.extractLsb' 8 8 ∧
    ∃ w : Word, exec (.regRead 0x004 4) { s with ctrl := c } =
        .next { { s with ctrl := c } with busData := some w } ∧
      w.extractLsb' 0 2 = c.mode.bits ∧ w.extractLsb' 2 2 = c.phcfg.bits ∧
      w.getLsbD 4 = c.dir ∧ w.getLsbD 5 = c.hall60 ∧ w.getLsbD 6 = c.buscomp ∧
      w.getLsbD 7 = false ∧ w.extractLsb' 8 8 = c.updrate ∧ w.extractLsb' 16 16 = 0#16

/-- A write to a read-only register is ignored and sets no error bit (20_memory.md R83). -/
def Obligations.ReadOnlyWritesIgnored : Prop :=
  ∀ (v : Word) (s : State) (o : BitVec 10),
    o ∈ [0x000#10, 0x008#10, 0x010#10, 0x050#10, 0x054#10, 0x058#10, 0x070#10, 0x074#10, 0x078#10,
      0x084#10, 0x088#10, 0x090#10, 0x0A4#10, 0x0A8#10, 0x0AC#10, 0x0B0#10, 0x0B4#10, 0x130#10,
      0x134#10, 0x138#10, 0x144#10, 0x154#10, 0x158#10, 0x16C#10, 0x170#10, 0x174#10, 0x17C#10,
      0x188#10, 0x18C#10, 0x190#10, 0x198#10, 0x1A0#10, 0x1A4#10, 0x1A8#10, 0x1DC#10] →
    exec (.regWrite o 4 v) s = .next s

/-- The plain read-write registers store what is written, bit 31 of a non-negative one dropped,
reserved bits ignored, and change nothing else (20_memory.md R85, 10_state.md). -/
def Obligations.PlainWritesStore : Prop :=
  ∀ (v : Word) (s : State),
    exec (.regWrite 0x014 4 v) s = .next { s with irqen := v.truncate 5 } ∧
    exec (.regWrite 0x020 4 v) s = .next { s with arg := v } ∧
    exec (.regWrite 0x040 4 v) s = .next { s with pi0.kp := v.truncate 31 } ∧
    exec (.regWrite 0x04C 4 v) s = .next { s with pi0.errin := v } ∧
    exec (.regWrite 0x060 4 v) s = .next { s with pi1.kp := v.truncate 31 } ∧
    exec (.regWrite 0x06C 4 v) s = .next { s with pi1.errin := v } ∧
    exec (.regWrite 0x080 4 v) s = .next { s with wave.angle := v } ∧
    exec (.regWrite 0x08C 4 v) s = .next { s with wave.pwmfreq := v } ∧
    exec (.regWrite 0x094 4 v) s = .next { s with wave.amp := v.truncate 31 } ∧
    exec (.regWrite 0x098 4 v) s = .next { s with wave.vnom := v.truncate 31 } ∧
    exec (.regWrite 0x09C 4 v) s = .next { s with wave.vfloor := v.truncate 31 } ∧
    exec (.regWrite 0x0A0 4 v) s = .next { s with wave.ampcap := v.truncate 31 } ∧
    exec (.regWrite 0x140 4 v) s = .next { s with zc.skiprst := v.truncate 16 } ∧
    exec (.regWrite 0x148 4 v) s = .next { s with zc.latency := v } ∧
    exec (.regWrite 0x14C 4 v) s = .next { s with zc.pwmper := v } ∧
    exec (.regWrite 0x150 4 v) s = .next { s with zc.avgper := v } ∧
    exec (.regWrite 0x160 4 v) s = .next { s with spd.sysclk := v } ∧
    exec (.regWrite 0x164 4 v) s = .next { s with spd.polepairs := v.truncate 8 } ∧
    exec (.regWrite 0x168 4 v) s = .next { s with spd.maxspeed := v } ∧
    exec (.regWrite 0x178 4 v) s = .next { s with spd.spdtmo := v.truncate 16 } ∧
    exec (.regWrite 0x180 4 v) s = .next { s with cur.calgain := v.truncate 31 } ∧
    exec (.regWrite 0x184 4 v) s = .next { s with cur.calofs := v } ∧
    exec (.regWrite 0x194 4 v) s = .next { s with cur.rmsk := v.truncate 31 } ∧
    exec (.regWrite 0x19C 4 v) s = .next { s with cur.pwrscale := v.truncate 31 } ∧
    exec (.regWrite 0x1C0 4 v) s = .next { s with mon.tmax := v } ∧
    exec (.regWrite 0x1C4 4 v) s = .next { s with mon.vmin := v.truncate 31 } ∧
    exec (.regWrite 0x1C8 4 v) s = .next { s with mon.vmax := v.truncate 31 } ∧
    exec (.regWrite 0x1CC 4 v) s = .next { s with mon.iminl := v.truncate 31 } ∧
    exec (.regWrite 0x1D0 4 v) s = .next { s with mon.imaxl := v.truncate 31 } ∧
    exec (.regWrite 0x1D4 4 v) s = .next { s with mon.minspeed := v } ∧
    exec (.regWrite 0x1D8 4 v) s = .next { s with mon.stallth := v.truncate 16 } ∧
    (∀ h : Fin 8, ∃ t, exec (.regWrite (BitVec.ofNat 10 (0x0C0 + 4 * h.val)) 4 v) s = .next t ∧
      t = { s with cmt.htab120 := t.cmt.htab120 } ∧
      (∀ j : Fin 8, t.cmt.htab120[j.val] = if j = h then v.truncate 6 else s.cmt.htab120[j.val])) ∧
    (∀ h : Fin 8, ∃ t, exec (.regWrite (BitVec.ofNat 10 (0x0E0 + 4 * h.val)) 4 v) s = .next t ∧
      t = { s with cmt.htab60 := t.cmt.htab60 } ∧
      (∀ j : Fin 8, t.cmt.htab60[j.val] = if j = h then v.truncate 6 else s.cmt.htab60[j.val])) ∧
    (∀ h : Fin 12, ∃ t, exec (.regWrite (BitVec.ofNat 10 (0x100 + 4 * h.val)) 4 v) s = .next t ∧
      t = { s with cmt.stab := t.cmt.stab } ∧
      (∀ j : Fin 12, t.cmt.stab[j.val] = if j = h then v.truncate 9 else s.cmt.stab[j.val]))

/-- A write of `ERR` or `IRQST` clears exactly the bits written as 1 (20_memory.md R85). -/
def Obligations.W1cWritesClear : Prop :=
  ∀ (v : Word) (s : State),
    (∃ t, exec (.regWrite 0x00C 4 v) s = .next t ∧ t = { s with err := t.err } ∧
      ∀ k < 8, t.err.getLsbD k = (s.err.getLsbD k && !v.getLsbD k)) ∧
    (∃ t, exec (.regWrite 0x018 4 v) s = .next t ∧ t = { s with irqst := t.irqst } ∧
      ∀ k < 5, t.irqst.getLsbD k = (s.irqst.getLsbD k && !v.getLsbD k))

/-- Sticky bits: no operation but a host write of `ERR` clears an `ERR` bit, none but a host write
of `IRQST` clears an `IRQST` bit, and an operation that sets an `ERR` bit sets `IRQST.ERR`
(10_state.md R24, R26, 60_exceptions.md R304). -/
def Obligations.StickyBitsClearedOnlyByHost : Prop :=
  ∀ (i : Instr) (s t : State), exec i s = .next t →
    ((∀ v, i ≠ .regWrite 0x00C 4 v) →
      (∀ k, s.err.getLsbD k = true → t.err.getLsbD k = true) ∧
      (t.err ≠ s.err → t.irqst.getLsbD 4 = true)) ∧
    ((∀ v, i ≠ .regWrite 0x018 4 v) → ∀ k, s.irqst.getLsbD k = true → t.irqst.getLsbD k = true)

/-- Single writer: commands and events write no host-written register (20_memory.md R96, with the
exceptions it names: ANGLE, AVGPER, ERR, IRQST). -/
def Obligations.OperationsKeepHostRegisters : Prop :=
  ∀ (i : Instr) (s t : State), i.format ≠ .access → exec i s = .next t →
    t.ctrl = s.ctrl ∧ t.irqen = s.irqen ∧ t.arg = s.arg ∧
    (∀ n : Fin 2, (t.pi n).kp = (s.pi n).kp ∧ (t.pi n).ki = (s.pi n).ki ∧
      (t.pi n).outmax = (s.pi n).outmax ∧ (t.pi n).errin = (s.pi n).errin) ∧
    t.wave.pwmfreq = s.wave.pwmfreq ∧ t.wave.amp = s.wave.amp ∧ t.wave.vnom = s.wave.vnom ∧
    t.wave.vfloor = s.wave.vfloor ∧ t.wave.ampcap = s.wave.ampcap ∧
    t.cmt.htab120 = s.cmt.htab120 ∧ t.cmt.htab60 = s.cmt.htab60 ∧ t.cmt.stab = s.cmt.stab ∧
    t.zc.skiprst = s.zc.skiprst ∧ t.zc.latency = s.zc.latency ∧ t.zc.pwmper = s.zc.pwmper ∧
    t.spd.sysclk = s.spd.sysclk ∧ t.spd.polepairs = s.spd.polepairs ∧
    t.spd.maxspeed = s.spd.maxspeed ∧ t.spd.spdtmo = s.spd.spdtmo ∧
    t.cur.calgain = s.cur.calgain ∧ t.cur.calofs = s.cur.calofs ∧ t.cur.rmsk = s.cur.rmsk ∧
    t.cur.pwrscale = s.cur.pwrscale ∧ t.mon.tmax = s.mon.tmax ∧ t.mon.vmin = s.mon.vmin ∧
    t.mon.vmax = s.mon.vmax ∧ t.mon.iminl = s.mon.iminl ∧ t.mon.imaxl = s.mon.imaxl ∧
    t.mon.minspeed = s.mon.minspeed ∧ t.mon.stallth = s.mon.stallth

/-- The block's host addresses: the base is a multiple of 0x400 and the register at offset `o` is the
word at `MCCORE_BASE + o` (20_memory.md R80). That host addresses are 32 bits wide is the model's
choice (DESIGN CHOICE, log 12). -/
def Obligations.WindowAddressesMapBack : Prop :=
  Config.mccoreBase.toNat % 0x400 = 0 ∧
  ∀ o : BitVec 10, (Config.busAddress o).toNat = Config.mccoreBase.toNat + o.toNat ∧
    windowOffset (Config.busAddress o) = some o

/-! ## Commands as words -/

/-- Every command word outside R101's set raises BADCMD and changes nothing else; so does a command
of the opcode table whose IDX is no PI instance (30_encoding.md R106, 41_pi.md R140). -/
def Obligations.IllegalCommandRaisesBadcmd : Prop :=
  (∀ (w : Word) (s : State), ¬ legalCommandWord w →
    exec (.regWrite 0x01C 4 w) s = .next (withErr 0x20 s)) ∧
  (∀ (n : BitVec 4) (s : State),
    (2 ≤ n.toNat → exec (.piStep n) s = .next (withErr 0x20 s) ∧
      exec (.piReset n) s = .next (withErr 0x20 s) ∧
      exec (.piSeed n) s = .next (withErr 0x20 s)))

/-- A legal command word written to `CMD` is that command's operation, and every legal word is some
command's (30_encoding.md R101). -/
def Obligations.CommandWritePerformsCommand : Prop :=
  (∀ (i : Instr) (s : State), i.format = .command → i.wellFormed = true →
    exec (lineCmd i) s = exec i s) ∧
  (∀ w : Word, legalCommandWord w → ∃ i : Instr, i.format = .command ∧ i.wellFormed = true ∧
    encode i = [w])

/-- NOP changes no state (40_dispatch.md R120). -/
def Obligations.NopChangesNothing : Prop :=
  encode .nop = [0x00000000#32] ∧ ∀ s : State, exec .nop s = .next s

/-! ## Fixed-point arithmetic -/

/-- `fixmul`: the floor of the product over 2^16 when it fits 32 signed bits, otherwise the value of
bits [47:16] of the product as a signed number, and then it overflows (00_scope.md R6). -/
def Obligations.FixmulIsShiftedProduct : Prop :=
  ∀ a b : Int,
    (fixmulOvf a b = false ↔ -2 ^ 31 ≤ a * b / 2 ^ 16 ∧ a * b / 2 ^ 16 ≤ 2 ^ 31 - 1) ∧
    (fixmulOvf a b = false → fixmul a b * 65536 ≤ a * b ∧ a * b < (fixmul a b + 1) * 65536) ∧
    fixmul a b = ((BitVec.ofInt 64 (a * b)).extractLsb' 16 32).toInt

/-! ## PI controllers -/

/-- PI_STEP: exact sums, clamps, the updated integrator in the output, MULOVF on an overflowing
product, and nothing else changes (41_pi.md R141). -/
def Obligations.PiStepUpdatesIntegratorAndOutput : Prop :=
  ∀ (n : Fin 2) (s : State), ∃ t : State,
    encode (.piStep (BitVec.ofNat 4 n.val)) = [BitVec.ofNat 32 (0x01 + 0x100 * n.val)] ∧
    exec (.piStep (BitVec.ofNat 4 n.val)) s = .next t ∧
    ((t.pi n).integ.toNat : Int) =
      min (max (((s.pi n).integ.toNat : Int) + (s.pi n).errin.toInt) 0) (s.pi n).imax.toNat ∧
    ((t.pi n).out.toNat : Int) =
      min (max (fixmul (s.pi n).kp.toNat (s.pi n).errin.toInt +
        fixmul (s.pi n).ki.toNat (t.pi n).integ.toNat) 0) (s.pi n).outmax.toNat ∧
    (let u := s.setPi n { s.pi n with integ := (t.pi n).integ, out := (t.pi n).out }
     t = if fixmulOvf (s.pi n).kp.toNat (s.pi n).errin.toInt ∨
            fixmulOvf (s.pi n).ki.toNat (t.pi n).integ.toNat
         then withErr 0x01 u else u)

/-- PI_SEED: the integrator of the desired contribution, rounded down and clamped; the seeded
contribution never exceeds the wish (41_pi.md R143). -/
def Obligations.PiSeedSetsIntegrator : Prop :=
  ∀ (n : Fin 2) (s : State), ∃ t : State,
    encode (.piSeed (BitVec.ofNat 4 n.val)) = [BitVec.ofNat 32 (0x03 + 0x100 * n.val)] ∧
    exec (.piSeed (BitVec.ofNat 4 n.val)) s = .next t ∧
    t = s.setPi n { s.pi n with integ := (t.pi n).integ } ∧
    ((s.pi n).ki = 0 → (t.pi n).integ = 0) ∧
    ((s.pi n).ki ≠ 0 → ((t.pi n).integ.toNat : Int) =
      min (max (max s.arg.toInt 0 * 65536 / (s.pi n).ki.toNat) 0) (s.pi n).imax.toNat) ∧
    fixmul (s.pi n).ki.toNat (t.pi n).integ.toNat ≤ max s.arg.toInt 0

/-- A write of KI rescales the integrator by the two floors, recomputes the bound and clamps; a write
of OUTMAX recomputes the bound and lowers the integrator to it; neither writes OUT
(41_pi.md R144, R145, R146). -/
def Obligations.GainAndLimitWritesKeepBound : Prop :=
  ∀ (n : Fin 2) (v : Word) (s : State),
    (let p := s.pi n
     let x := v.toNat % 2 ^ 31
     (∃ t : State, exec (.regWrite (BitVec.ofNat 10 (0x044 + 0x20 * n.val)) 4 v) s = .next t ∧
       (t.pi n).ki.toNat = x ∧
       (t.pi n).imax.toNat =
         (if x = 0 then 0x7FFFFFFF else min (p.outmax.toNat * 65536 / x) 0x7FFFFFFF) ∧
       (t.pi n).integ.toNat =
         min (if x = 0 then p.integ.toNat
              else p.integ.toNat * 65536 / x * p.ki.toNat / 65536) (t.pi n).imax.toNat ∧
       t = s.setPi n { p with
         ki := (t.pi n).ki, imax := (t.pi n).imax, integ := (t.pi n).integ }) ∧
     (∃ t : State, exec (.regWrite (BitVec.ofNat 10 (0x048 + 0x20 * n.val)) 4 v) s = .next t ∧
       (t.pi n).outmax.toNat = x ∧
       (t.pi n).imax.toNat =
         (if p.ki = 0 then 0x7FFFFFFF else min (x * 65536 / p.ki.toNat) 0x7FFFFFFF) ∧
       (t.pi n).integ.toNat = min p.integ.toNat (t.pi n).imax.toNat ∧
       t = s.setPi n { p with
         outmax := (t.pi n).outmax, imax := (t.pi n).imax, integ := (t.pi n).integ }))

/-- The I term never overflows and never exceeds OUTMAX, so MULOVF of PI_STEP comes from the P term
(41_pi.md R148). -/
def Obligations.ItermNeverOverflows : Prop :=
  ∀ (n : Fin 2) (s t : State), (s.pi n).Inv →
    exec (.piStep (BitVec.ofNat 4 n.val)) s = .next t →
    fixmulOvf (s.pi n).ki.toNat (t.pi n).integ.toNat = false ∧
    fixmul (s.pi n).ki.toNat (t.pi n).integ.toNat ≤ (s.pi n).outmax.toNat ∧
    (fixmulOvf (s.pi n).kp.toNat (s.pi n).errin.toInt = false → t.err = s.err)

/-- Continuity of a gain change: where the final clamp does not bind the I contribution does not
grow and drops by the stated rounding at most, by at most 4 LSBs for gains up to 1.0; and the clamp
binds only in the stated case (41_pi.md R150). -/
def Obligations.GainChangeIsContinuous : Prop :=
  ∀ (n : Fin 2) (v : Word) (s t : State), (s.pi n).Inv →
    exec (.regWrite (BitVec.ofNat 10 (0x044 + 0x20 * n.val)) 4 v) s = .next t →
    (s.pi n).ki ≠ 0 → (t.pi n).ki ≠ 0 →
    (let new := (t.pi n).ki.toNat
     let old := (s.pi n).ki.toNat
     let before := fixmul old (s.pi n).integ.toNat
     let now := fixmul new (t.pi n).integ.toNat
     let scaled := (s.pi n).integ.toNat * 65536 / new * old / 65536
     (scaled ≤ (t.pi n).imax.toNat →
       now ≤ before ∧ (before - now) * 2 ^ 32 ≤ new * old + new * 2 ^ 16 + 2 * 2 ^ 32 ∧
       (new ≤ 0x10000 → old ≤ 0x10000 → before - now ≤ 4)) ∧
     ((t.pi n).imax.toNat < scaled →
       new < old ∧ 0x7FFFFFFF < (s.pi n).outmax.toNat * 65536 / new))

/-! ## Angle integrator and waveform -/

/-- The six reset commands reset only their named state: PI_RESET its instance's integrator and
output, ANG_RESET the angle and the period count, ZC_RESET the detector's arming, SPD_RESET the
estimator's freshness, CUR_RESET the current filter, FAULT_CLEAR every fault bit (41_pi.md R142,
42_waveform.md R160, 45_bemf.md R232, 44_speed.md R210, R215, 46_current.md R256,
47_fault_monitor.md R285). -/
def Obligations.ResetCommandsResetOnlyTheirState : Prop :=
  [encode (.piReset 0), encode (.piReset 1), encode .angReset, encode .zcReset, encode .spdReset,
    encode .curReset, encode .faultClear] =
    [[0x00000002#32], [0x00000102#32], [0x00000010#32], [0x00000023#32], [0x00000030#32],
      [0x00000031#32], [0x00000040#32]] ∧
  ∀ s : State,
    exec (.piReset 0) s = .next { s with pi0.integ := 0, pi0.out := 0 } ∧
    exec (.piReset 1) s = .next { s with pi1.integ := 0, pi1.out := 0 } ∧
    exec .angReset s = .next { s with wave.angle := 0, wave.pcnt := 0 } ∧
    exec .zcReset s =
      .next { s with zc.zcvalid := false, zc.zcdone := false, zc.skipcnt := s.zc.skiprst } ∧
    exec .spdReset s =
      .next { s with spd.skip := true, spd.seed := true, spd.mspeed := 0, spd.edgeage := 0 } ∧
    exec .curReset s =
      .next { s with
        cur.pkacc := 0, cur.ipeak := 0, cur.iavg := 0, cur.irms := 0, cur.power := 0 } ∧
    exec .faultClear s = .next { s with fault := 0 }

/-- ANG_SETFREQ stores the frequency and the delta per period, or 0 with DIV0 for PWMFREQ = 0
(42_waveform.md R161, R162). -/
def Obligations.AngSetfreqComputesDelta : Prop :=
  encode .angSetfreq = [0x00000011#32] ∧
  ∀ s : State,
    (s.wave.pwmfreq = 0 →
      exec .angSetfreq s = .next (withErr 0x02 { s with wave.freq := s.arg, wave.adelta := 0 })) ∧
    (s.wave.pwmfreq ≠ 0 → ∃ t : State, exec .angSetfreq s = .next t ∧
      t.wave.adelta.toNat = s.arg.toNat * 65536 / s.wave.pwmfreq.toNat % 2 ^ 32 ∧
      t = { s with wave.freq := s.arg, wave.adelta := t.wave.adelta })

/-- WAVE_UPDATE recomputes AMPEFF and the duties at the present angle, sets IRQST.UPD and changes
nothing else; in particular no window closes (42_waveform.md R173, R165, R166). -/
def Obligations.WaveUpdateRecomputesDuties : Prop :=
  encode .waveUpdate = [0x00000012#32] ∧
  ∀ s : State, ∃ t : State, exec .waveUpdate s = .next t ∧
    t = { s with
      wave.ampeff := t.wave.ampeff, wave.dutyA := t.wave.dutyA, wave.dutyB := t.wave.dutyB,
      wave.dutyC := t.wave.dutyC, irqst := s.irqst ||| 0x02#5 } ∧
    t.wave.ampeff.toNat =
      (if s.ctrl.buscomp then
        min (s.wave.amp.toNat * s.wave.vnom.toNat /
          max (max s.cur.vbus.toNat s.wave.vfloor.toNat) 1) s.wave.ampcap.toNat
       else s.wave.amp.toNat) ∧
    (t.wave.dutyA, t.wave.dutyB, t.wave.dutyC) =
      (let d := dutiesOf s.ctrl s.wave.angle t.wave.ampeff
       (d.a, d.b, d.c))

/-- The sine duties: half of the clipped scaled sine plus a half, at the index of each used phase; an
unused phase's duty is 0 (42_waveform.md R168, R169). -/
def Obligations.SineDutiesFollowTable : Prop :=
  ∀ (c : Ctrl) (angle : Word) (ampeff : NonNeg),
    (c.mode = .sine ∨ (c.mode = .svpwm ∧ c.phcfg ≠ .three)) →
    (let i := angle.toNat * 384 / 2 ^ 32
     let duty := fun j : Nat =>
       (min (max (sinRom (j % 384) * (ampeff.toNat : Int) / 65536) (-65536)) 65536 + 65536) / 2
     let d := dutiesOf c angle ampeff
     i < 384 ∧ (d.a.toNat : Int) = duty i ∧
     (c.phcfg = .one → d.b = 0 ∧ d.c = 0) ∧
     (c.phcfg = .bridge → (d.b.toNat : Int) = duty (i + 192) ∧ d.c = 0) ∧
     (c.phcfg = .three → c.dir = false →
       (d.b.toNat : Int) = duty (i + 256) ∧ (d.c.toNat : Int) = duty (i + 128)) ∧
     (c.phcfg = .three → c.dir = true →
       (d.b.toNat : Int) = duty (i + 128) ∧ (d.c.toNat : Int) = duty (i + 256)))

/-- The space-vector duties add the min-max offset before clipping; the trapezoid duties are the
effective amplitude clipped to 1.0 on all three (42_waveform.md R170, R171). -/
def Obligations.SpaceVectorAndTrapezoidDuties : Prop :=
  ∀ (c : Ctrl) (angle : Word) (ampeff : NonNeg),
    (let d := dutiesOf c angle ampeff
     (c.mode = .svpwm → c.phcfg = .three →
       (let i := angle.toNat * 384 / 2 ^ 32
        let v := fun j : Nat => sinRom (j % 384) * (ampeff.toNat : Int) / 65536
        let va := v i
        let vb := v (if c.dir then i + 128 else i + 256)
        let vc := v (if c.dir then i + 256 else i + 128)
        let off := -((max va (max vb vc) + min va (min vb vc)) / 2)
        let duty := fun x : Int => (min (max (x + off) (-65536)) 65536 + 65536) / 2
        (d.a.toNat : Int) = duty va ∧ (d.b.toNat : Int) = duty vb ∧ (d.c.toNat : Int) = duty vc)) ∧
     (c.mode = .trapHall ∨ c.mode = .trapBemf →
       d.a.toNat = min ampeff.toNat 0x10000 ∧ d.b.toNat = min ampeff.toNat 0x10000 ∧
       d.c.toNat = min ampeff.toNat 0x10000))

/-- EV_PWM counts its periods; below UPDRATE + 1 nothing else happens, from there on one update
drains them all, and it closes the current window exactly when, in a sine mode, bit 31 of the angle
changes (42_waveform.md R164, R165, R172). -/
def Obligations.EvPwmCountsAndUpdates : Prop :=
  (∀ c : Word, encode (.evPwm c) = [0x000000E0#32, c]) ∧
  ∀ (c : Word) (s : State), c ≠ 0 →
    (let n := min (s.wave.pcnt.toNat + c.toNat) (2 ^ 32 - 1)
     (n < s.ctrl.updrate.toNat + 1 →
       exec (.evPwm c) s =
         .next { s with pend.pwm := 0, wave.pcnt := BitVec.ofNat 32 n }) ∧
     (s.ctrl.updrate.toNat + 1 ≤ n → ∃ t u : State, exec (.evPwm c) s = .next t ∧
       t.wave.angle.toNat = (s.wave.angle.toNat + s.wave.adelta.toNat * n) % 2 ^ 32 ∧
       exec .waveUpdate
         { s with pend.pwm := 0, wave.pcnt := 0, wave.angle := t.wave.angle } = .next u ∧
       t = if (s.ctrl.mode = .sine ∨ s.ctrl.mode = .svpwm) ∧
              t.wave.angle.getLsbD 31 ≠ s.wave.angle.getLsbD 31
           then windowClose u else u))

/-- N updates of n_1, …, n_N periods leave the angle of one update of their sum, and N events
EV_PWM(1) at UPDRATE 0 leave the angle of one EV_PWM(N), also where periods are already counted (as
after UPDRATE was lowered), short of the counter's range (42_waveform.md R174). -/
def Obligations.AngleAdvancesAdditively : Prop :=
  (∀ (ns : List Nat) (s : State),
    (ns.foldl (fun t n => waveUpdate n t) s).wave.angle =
      BitVec.ofNat 32 (s.wave.angle.toNat + s.wave.adelta.toNat * ns.sum)) ∧
  (∀ (n : Nat) (s : State), 0 < n → s.wave.pcnt.toNat + n < 2 ^ 32 → s.ctrl.updrate = 0 →
    ∃ t u : State, execAll (List.replicate n (.evPwm 1)) s = .next t ∧
      exec (.evPwm (BitVec.ofNat 32 n)) s = .next u ∧ t.wave.angle = u.wave.angle)

/-- The sine ROM has R167's symmetry and check values, and at amplitude 1.0 the three sine duties sum
to 98302 … 98304 (42_waveform.md R167, R175). -/
def Obligations.ThreePhaseSumStaysInBand : Prop :=
  ((∀ i ≤ 96, sinRom i = qsin i) ∧ (∀ i, 96 < i → i ≤ 192 → sinRom i = qsin (192 - i)) ∧
    (∀ i, 192 < i → i ≤ 383 → sinRom i = -sinRom (i - 192)) ∧
    [0, 96, 128, 192, 256, 288, 383].map sinRom = [0, 65536, 56756, 0, -56756, -65536, -1072] ∧
    ((List.range 97).map qsin).sum = 4037944 ∧ ((List.range 384).map sinRom).sum = 0) ∧
  (∀ (angle : Word) (c : Ctrl), c.mode = .sine → c.phcfg = .three →
    (let d := dutiesOf c angle 0x10000#31
     98302 ≤ d.a.toNat + d.b.toNat + d.c.toNat ∧
     d.a.toNat + d.b.toNat + d.c.toNat ≤ 98304)) ∧
  (∀ i < 384, -1 ≤ sinRom i + sinRom ((i + 128) % 384) + sinRom ((i + 256) % 384) ∧
    sinRom i + sinRom ((i + 128) % 384) + sinRom ((i + 256) % 384) ≤ 1)

/-! ## Commutation -/

/-- `SetMask`: the mask is applied with IRQST.CMT and, in the trapezoid modes, a window close; the
mask already applied changes nothing (43_commutation.md R192). -/
def Obligations.SetMaskOnChangeOnly : Prop :=
  ∀ (m : Mask) (s : State),
    (m = s.cmt.phmask → setMask m s = s) ∧
    (m ≠ s.cmt.phmask →
      (let u := { s with cmt.phmask := m, irqst := s.irqst ||| 0x08#5 }
       setMask m s =
         if s.ctrl.mode = .trapHall ∨ s.ctrl.mode = .trapBemf then windowClose u else u))

/-- CMT_HALL in TRAP_HALL applies the table's mask, swapped in reverse, with TABERR or NODRIVE and
mask 0 for a bad entry; in the other modes it has no effect (43_commutation.md R193, R194, R199). -/
def Obligations.CmtHallAppliesTableMask : Prop :=
  encode .cmtHall = [0x00000020#32] ∧
  ∀ s : State,
    (s.ctrl.mode ≠ .trapHall → exec .cmtHall s = .next s) ∧
    (s.ctrl.mode = .trapHall →
      (let m := if s.ctrl.hall60 then s.cmt.htab60[s.cmt.hall.toNat]
                else s.cmt.htab120[s.cmt.hall.toNat]
       let bad := ∃ p < 3, m.getLsbD (2 * p) = true ∧ m.getLsbD (2 * p + 1) = true
       (bad → exec .cmtHall s = .next (setMask 0 (withErr 0x08 s))) ∧
       (¬ bad → m = 0 → exec .cmtHall s = .next (setMask 0 (withErr 0x04 s))) ∧
       (¬ bad → m ≠ 0 → ∃ r : Mask, exec .cmtHall s = .next (setMask r s) ∧
         (s.ctrl.dir = false → r = m) ∧
         (s.ctrl.dir = true → ∀ p < 3, r.getLsbD (2 * p) = m.getLsbD (2 * p + 1) ∧
           r.getLsbD (2 * p + 1) = m.getLsbD (2 * p)))))

/-- EV_HALL latches the Hall state, looks the mask up in TRAP_HALL, and in every mode but TRAP_BEMF
takes a speed edge when sensor A rises (43_commutation.md R195). -/
def Obligations.EvHallLatchesAndLooksUp : Prop :=
  (∀ (h : BitVec 3) (ts : Word),
    encode (.evHall h ts) = [BitVec.ofNat 32 (0xE2 + 0x10000 * h.toNat), ts]) ∧
  ∀ (h : BitVec 3) (ts : Word) (s : State), ∃ u : State,
    exec .cmtHall { s with cmt.hall := h } = .next u ∧
    (if s.ctrl.mode ≠ .trapBemf ∧ s.cmt.hall.getLsbD 0 = false ∧ h.getLsbD 0 = true
     then exec (.evHall h ts) s = .next (speedEdge ts u)
     else exec (.evHall h ts) s = .next u)

/-- CMT_STEPSET sets the step; in TRAP_BEMF it applies the table entry of the direction's half
(floating phase, mask, TABERR or NODRIVE) and re-arms the detector (43_commutation.md R196, R200,
45_bemf.md R231). -/
def Obligations.CmtStepsetAppliesEntry : Prop :=
  (∀ k : BitVec 4, encode (.cmtStepset k) = [BitVec.ofNat 32 (0x21 + 0x100 * k.toNat)]) ∧
  (∀ (k : BitVec 4) (s : State), 6 ≤ k.toNat →
    exec (.cmtStepset k) s = .next (withErr 0x20 s)) ∧
  ∀ (k : Fin 6) (s : State),
    (s.ctrl.mode ≠ .trapBemf →
      exec (.cmtStepset (BitVec.ofNat 4 k.val)) s = .next { s with cmt.cstep := k }) ∧
    (s.ctrl.mode = .trapBemf →
      (let e := if s.ctrl.dir then s.cmt.stab[6 + k.val]'(by omega)
                else s.cmt.stab[k.val]'(by omega)
       let m : Mask := e.truncate 6
       let bad := ∃ p < 3, m.getLsbD (2 * p) = true ∧ m.getLsbD (2 * p + 1) = true
       let u := { s with cmt.cstep := k, cmt.floatph := e.extractLsb' 6 2 }
       ∃ t : State, exec (.cmtStepset (BitVec.ofNat 4 k.val)) s =
           .next { t with zc.skipcnt := s.zc.skiprst, zc.zcdone := false } ∧
         (bad → t = setMask 0 (withErr 0x08 u)) ∧
         (¬ bad → m = 0 → t = setMask 0 (withErr 0x04 u)) ∧
         (¬ bad → m ≠ 0 → t = setMask m u)))

/-- CMT_STEPADV is CMT_STEPSET of the next step modulo 6, EV_CMT is CMT_STEPADV in TRAP_BEMF and has
no effect in the other modes (43_commutation.md R197, R198, R201). -/
def Obligations.StepAdvanceCountsModuloSix : Prop :=
  encode .cmtStepadv = [0x00000022#32] ∧ encode .evCmt = [0x000000E3#32] ∧
  ∀ s : State, ∃ t : State,
    exec (.cmtStepset (BitVec.ofNat 4 ((s.cmt.cstep.val + 1) % 6))) s = .next t ∧
    exec .cmtStepadv s = .next t ∧
    (s.ctrl.mode = .trapBemf → exec .evCmt s = .next t) ∧
    (s.ctrl.mode ≠ .trapBemf → exec .evCmt s = .next s)

/-! ## Speed estimator -/

/-- `SpeedEdge`: the skipped edge, the division by zero, the seeding sample, the rejected sample and
the 3:1 filter (44_speed.md R212, R213, R214). -/
def Obligations.SpeedEdgeFiltersSamples : Prop :=
  ∀ (ts : Word) (s : State),
    (let el := (ts.toNat + 2 ^ 32 - s.spd.lastedge.toNat) % 2 ^ 32
     let den := el * s.spd.polepairs.toNat
     let sample := min (s.spd.sysclk.toNat * 60 / den) (2 ^ 32 - 1)
     let m := s.spd.mspeed.toNat
     let u := { s with spd.edgeage := 0, spd.lastedge := ts }
     (s.spd.skip = true → speedEdge ts s = { u with spd.skip := false }) ∧
     (s.spd.skip = false → den = 0 → speedEdge ts s = withErr 0x02 u) ∧
     (s.spd.skip = false → den ≠ 0 → ∃ t : State, speedEdge ts s = t ∧
       t.spd.spdsamp.toNat = sample ∧
       (s.spd.seed = true → t.spd.mspeed.toNat = sample ∧ t.spd.seed = false) ∧
       (s.spd.seed = false → t.spd.seed = false) ∧
       (s.spd.seed = false → s.spd.maxspeed.toNat / 2 < ((sample : Int) - m).natAbs →
         t.spd.mspeed.toNat = m) ∧
       (s.spd.seed = false → ((sample : Int) - m).natAbs ≤ s.spd.maxspeed.toNat / 2 →
         t.spd.mspeed.toNat = (3 * m + sample) / 4) ∧
       t = { u with spd.spdsamp := t.spd.spdsamp, spd.mspeed := t.spd.mspeed,
                    spd.seed := t.spd.seed }))

/-- The 3:1 filter under a constant sample moves monotonically toward it, never overshoots, and ends
at it from above and within 3 below it from below (44_speed.md R217, 46_current.md R258). -/
def Obligations.FilterConvergesMonotonically : Prop :=
  ∀ m c : Nat,
    (m ≤ c → m ≤ iir3 m c ∧ iir3 m c ≤ c) ∧ (c ≤ m → c ≤ iir3 m c ∧ iir3 m c ≤ m) ∧
    ∃ n v : Nat, v ≤ c ∧ c ≤ v + 3 ∧ (c ≤ m → v = c) ∧
      ∀ k, n ≤ k → (fun x => iir3 x c)^[k] m = v

/-! ## BEMF detector and ADC events -/

/-- EV_ADC latches the bus voltage, the temperature and the peak count; outside TRAP_BEMF nothing
else happens, in TRAP_BEMF the sample is skipped, ignored, or a crossing (46_current.md R250,
45_bemf.md R230, R233 to R236). -/
def Obligations.EvAdcLatchesAndDetects : Prop :=
  (∀ (ic : BitVec 16) (vbemf vb tp ts : Word), encode (.evAdc ic vbemf vb tp ts) =
    [BitVec.ofNat 32 (0xE1 + 0x10000 * ic.toNat), vbemf, vb, tp, ts]) ∧
  ∀ (ic : BitVec 16) (vbemf vb tp ts : Word) (s : State), ∃ u : State,
    u = { s with cur.vbus := vb.truncate 31, cur.temp := tp, cur.pkacc := u.cur.pkacc } ∧
    u.cur.pkacc.toNat = max s.cur.pkacc.toNat ic.toNat ∧
    (let e := if s.ctrl.dir then s.cmt.stab[6 + s.cmt.cstep.val]'(by omega)
              else s.cmt.stab[s.cmt.cstep.val]'(by omega)
     let half := vb.toNat % 2 ^ 31 / 2
     let crossed := e.extractLsb' 6 2 ≠ 3#2 ∧
       (if e.getLsbD 8 then half ≤ vbemf.toNat % 2 ^ 31 else vbemf.toNat % 2 ^ 31 ≤ half)
     let run := exec (.evAdc ic vbemf vb tp ts) s
     (s.ctrl.mode ≠ .trapBemf → run = .next u) ∧
     (s.ctrl.mode = .trapBemf → s.zc.zcdone = true → run = .next u) ∧
     (s.ctrl.mode = .trapBemf → s.zc.zcdone = false → s.zc.skipcnt ≠ 0 →
       run = .next { u with zc.skipcnt := s.zc.skipcnt - 1 }) ∧
     (s.ctrl.mode = .trapBemf → s.zc.zcdone = false → s.zc.skipcnt = 0 → ¬ crossed →
       run = .next u) ∧
     (s.ctrl.mode = .trapBemf → s.zc.zcdone = false → s.zc.skipcnt = 0 → crossed →
       run = .next (zcDetect ts u)))

/-- `ZcDetect`: the smoothed period, the delay of at least one tick, its strobe, IRQST.ZC, and a
speed edge at step 0 (45_bemf.md R235, R236; the strobe stands in `cmtarm`, log 4). -/
def Obligations.ZcDetectIssuesDelay : Prop :=
  ∀ (ts : Word) (s : State), ∃ u : State,
    u = { s with
      zc.zcdone := true, zc.zcvalid := true, zc.lastzc := ts, zc.avgper := u.zc.avgper,
      zc.cmtdly := u.zc.cmtdly, cmtarm := some u.zc.cmtdly, irqst := s.irqst ||| 0x04#5 } ∧
    u.zc.avgper.toNat =
      (if s.zc.zcvalid then
        (3 * s.zc.avgper.toNat + (ts.toNat + 2 ^ 32 - s.zc.lastzc.toNat) % 2 ^ 32) / 4
       else s.zc.avgper.toNat) ∧
    (u.zc.cmtdly.toNat : Int) =
      max (((u.zc.avgper.toNat / 2 : Nat) : Int) - s.zc.latency.toNat -
        ((s.zc.pwmper.toNat / 2 : Nat) : Int)) 1 ∧
    zcDetect ts s = if s.cmt.cstep = 0 then speedEdge ts u else u

/-- After a crossing, no run of operations without a step change and without ZC_RESET detects another
one: ZCDONE stays set, no strobe is issued, IRQST.ZC is not set again, and the detector keeps all but
what the host writes; samples change only the current latches (45_bemf.md R238). -/
def Obligations.OneCrossingPerStep : Prop :=
  (∀ (is : List Instr) (s t : State), s.zc.zcdone = true → (∀ i ∈ is, ¬ rearmsDetector i) →
    execAll is s = .next t →
    t.zc.zcdone = true ∧ t.cmtarm = s.cmtarm ∧
    (t.irqst.getLsbD 2 = true → s.irqst.getLsbD 2 = true) ∧
    t.zc = { s.zc with
      skiprst := t.zc.skiprst, latency := t.zc.latency, pwmper := t.zc.pwmper
      avgper := t.zc.avgper }) ∧
  (∀ (is : List Instr) (s : State), s.zc.zcdone = true →
    (∀ i ∈ is, ∃ ic vbemf vb tp ts, i = .evAdc ic vbemf vb tp ts) →
    ∃ t : State, execAll is s = .next t ∧ t = { s with cur := t.cur })

/-- EV_ADCERR sets ERR.ADCERR and IRQST.ERR and nothing else (46_current.md R257). -/
def Obligations.EvAdcerrFlagsOnly : Prop :=
  encode .evAdcerr = [0x000000E6#32] ∧
  ∀ s : State, exec .evAdcerr s = .next (withErr 0x10 s)

/-! ## Current filter -/

/-- `WindowClose`: calibrated peak, 3:1 average, RMS, 15:1 power and a cleared peak, with MULOVF if a
product overflows; that the RMS product counts too is log 14 (46_current.md R252 to R255). -/
def Obligations.WindowCloseFiltersPeak : Prop :=
  ∀ s : State, ∃ c : CurRegs,
    (let d : Int := min (s.wave.ampeff.toNat : Int) 0x10000
     let vd := fixmul s.cur.vbus.toNat d
     let vdi := fixmul vd c.iavg.toNat
     let ovf := fixmulOvf c.iavg.toNat s.cur.rmsk.toNat || fixmulOvf s.cur.vbus.toNat d ||
       fixmulOvf vd c.iavg.toNat || fixmulOvf vdi s.cur.pwrscale.toNat
     windowClose s = (if ovf then withErr 0x01 { s with cur := c } else { s with cur := c }) ∧
     (c.ipeak.toNat : Int) =
       min (max ((s.cur.pkacc.toNat : Int) * s.cur.calgain.toNat + s.cur.calofs.toInt) 0)
         0x7FFFFFFF ∧
     c.iavg.toNat = (3 * s.cur.iavg.toNat + c.ipeak.toNat) / 4 ∧
     c.irms.toInt = fixmul c.iavg.toNat s.cur.rmsk.toNat ∧
     c.power.toInt = (15 * s.cur.power.toInt + fixmul vdi s.cur.pwrscale.toNat) / 16 ∧
     c = { s.cur with
       ipeak := c.ipeak, iavg := c.iavg, irms := c.irms, power := c.power, pkacc := 0 } ∧
     c.iavg.toNat ≤ max s.cur.iavg.toNat c.ipeak.toNat)

/-! ## Fault monitor -/

/-- EV_TICK: the speed ages, the stall counter counts, WDFLAG is consumed; exactly the conditions of
R281 that hold are latched, and if any holds the trip is taken with IRQST.FAULT
(47_fault_monitor.md R280 to R283, 44_speed.md R216). -/
def Obligations.EvTickLatchesHeldConditions : Prop :=
  encode .evTick = [0x000000E4#32] ∧
  ∀ s : State,
    (let age := min (s.spd.edgeage.toNat + 1) 0xFFFF
     let timeout : Bool := decide (s.spd.spdtmo ≠ 0 ∧ s.spd.spdtmo.toNat ≤ age)
     let mspeed : Word := if timeout then 0 else s.spd.mspeed
     let stall := if s.mon.runst = true ∧ mspeed = 0
       then min (s.mon.stallcnt.toNat + 1) 0xFFFF else 0
     let calPk : Int :=
       min (max ((s.cur.pkacc.toNat : Int) * s.cur.calgain.toNat + s.cur.calofs.toInt) 0) 0x7FFFFFFF
     let held : Nat → Bool := fun k =>
       match k with
       | 1 => decide (s.cur.vbus.toNat < s.mon.vmin.toNat)
       | 2 => decide (s.mon.vmax.toNat < s.cur.vbus.toNat)
       | 3 => decide (s.mon.runst = true ∧ s.mon.minspeed.toNat ≤ mspeed.toNat ∧
           s.cur.iavg.toNat < s.mon.iminl.toNat)
       | 4 => decide ((s.mon.imaxl.toNat : Int) < max (s.cur.ipeak.toNat : Int) calPk)
       | 5 => decide (s.mon.tmax.toInt < s.cur.temp.toInt)
       | 6 => decide (s.mon.stallth ≠ 0 ∧ s.mon.runst = true ∧ s.mon.stallth.toNat ≤ stall)
       | 7 => s.mon.wdflag
       | _ => false
     ∃ t : State, exec .evTick s = .next t ∧
       (∀ k < 8, t.fault.getLsbD k = (s.fault.getLsbD k || held k)) ∧
       (if ∃ k : Fin 8, held k.val = true then
          t = { s with
            fault := t.fault, irqst := s.irqst ||| 0x01#5,
            mon.wdflag := false, mon.stallcnt := 0, mon.outen := false, mon.runst := false,
            spd.edgeage := 0, spd.mspeed := 0, spd.skip := true, spd.seed := true }
        else
          t = { s with
            mon.wdflag := false, mon.stallcnt := BitVec.ofNat 16 stall,
            spd.edgeage := BitVec.ofNat 16 age, spd.mspeed := mspeed,
            spd.skip := s.spd.skip || timeout, spd.seed := s.spd.seed || timeout }))

/-- ESTOP latches its bit, trips and sets IRQST.FAULT, whatever the block does
(47_fault_monitor.md R283, R284). -/
def Obligations.EstopTrips : Prop :=
  encode .estop = [0x00000041#32] ∧
  ∀ s : State, exec .estop s =
    .next { s with
      fault := s.fault ||| 0x01#8, irqst := s.irqst ||| 0x01#5, mon.outen := false,
      mon.runst := false, mon.stallcnt := 0, spd.skip := true, spd.seed := true, spd.mspeed := 0,
      spd.edgeage := 0 }

/-- OUT_ON enables the outputs only without a latched fault and OUT_OFF always disables them;
RUN_ENTER starts a run only without a latched fault and not running, RUN_EXIT ends one, both make
the estimator fresh, and otherwise neither does anything
(47_fault_monitor.md R286, R288, R289, R290). -/
def Obligations.OutputAndRunCommands : Prop :=
  [encode .outOn, encode .outOff, encode .runEnter, encode .runExit] =
    [[0x00000042#32], [0x00000043#32], [0x00000044#32], [0x00000045#32]] ∧
  ∀ s : State,
    (let fresh := fun (b : Bool) => { s with
       mon.runst := b, mon.stallcnt := 0, spd.skip := true, spd.seed := true, spd.mspeed := 0,
       spd.edgeage := 0 }
     (s.fault = 0 → exec .outOn s = .next { s with mon.outen := true }) ∧
     (s.fault ≠ 0 → exec .outOn s = .next s) ∧
     exec .outOff s = .next { s with mon.outen := false } ∧
     (s.fault = 0 → s.mon.runst = false → exec .runEnter s = .next (fresh true)) ∧
     (s.fault ≠ 0 ∨ s.mon.runst = true → exec .runEnter s = .next s) ∧
     (s.mon.runst = true → exec .runExit s = .next (fresh false)) ∧
     (s.mon.runst = false → exec .runExit s = .next s))

/-- EV_WDOG sets WDFLAG only; the next tick latches the watchdog fault and trips
(47_fault_monitor.md R287). -/
def Obligations.EvWdogTripsAtNextTick : Prop :=
  encode .evWdog = [0x000000E5#32] ∧
  ∀ s : State, exec .evWdog s = .next { s with mon.wdflag := true } ∧
    ∃ t : State, exec .evTick { s with mon.wdflag := true } = .next t ∧
      t.fault.getLsbD 7 = true ∧ t.mon.wdflag = false ∧ t.mon.outen = false ∧ t.mon.runst = false

/-- A fault bit stays set under every operation but FAULT_CLEAR, and OUTEN and RUNST change only by
the operations R27 names (47_fault_monitor.md R291, 10_state.md R27, R28). -/
def Obligations.FaultBitsStayUntilCleared : Prop :=
  ∀ (i : Instr) (s t : State), exec i s = .next t →
    (i ≠ .faultClear → i ≠ .regWrite 0x01C 4 0x40#32 →
      ∀ k, s.fault.getLsbD k = true → t.fault.getLsbD k = true) ∧
    (t.mon.outen ≠ s.mon.outen ∨ t.mon.runst ≠ s.mon.runst →
      i = .evTick ∨
      (∃ j ∈ [Instr.outOn, .outOff, .runEnter, .runExit, .estop], i = j ∨ i = lineCmd j))

/-- A current reading above the limit trips at the next tick, whatever operations come between them,
unless CUR_RESET is among them or the window closes twice; a host write of the limit or of the
calibration changes the question and is left out (47_fault_monitor.md R292). -/
def Obligations.OvercurrentTripsAtNextTick : Prop :=
  ∀ (ic : BitVec 16) (vbemf vb tp ts : Word) (s : State),
    (s.mon.imaxl.toNat : Int) <
      min (max ((ic.toNat : Int) * s.cur.calgain.toNat + s.cur.calofs.toInt) 0) 0x7FFFFFFF →
    ∃ t : State, exec (.evAdc ic vbemf vb tp ts) s = .next t ∧
      ∀ (is : List Instr) (u : State), (∀ i ∈ is, ¬ changesPeakTest i) → peakLosses is t ≤ 1 →
        execAll is t = .next u →
        ∃ v : State, exec .evTick u = .next v ∧ v.fault.getLsbD 4 = true ∧
          v.mon.outen = false ∧ v.mon.runst = false ∧ v.irqst.getLsbD 0 = true

/-- A voltage, temperature or over-current condition that still holds is latched again by the tick
after FAULT_CLEAR, and trips again (47_fault_monitor.md R293). -/
def Obligations.HeldConditionRelatches : Prop :=
  ∀ s : State,
    (let calPk : Int :=
       min (max ((s.cur.pkacc.toNat : Int) * s.cur.calgain.toNat + s.cur.calofs.toInt) 0) 0x7FFFFFFF
     let holds : Nat → Prop := fun k =>
       (k = 1 ∧ s.cur.vbus.toNat < s.mon.vmin.toNat) ∨
       (k = 2 ∧ s.mon.vmax.toNat < s.cur.vbus.toNat) ∨
       (k = 4 ∧ (s.mon.imaxl.toNat : Int) < max (s.cur.ipeak.toNat : Int) calPk) ∨
       (k = 5 ∧ s.mon.tmax.toInt < s.cur.temp.toInt)
     ∀ k, holds k → ∃ t u v : State, exec .evTick s = .next t ∧ t.fault.getLsbD k = true ∧
       exec .faultClear t = .next u ∧ u.fault = 0 ∧ exec .evTick u = .next v ∧
       v.fault.getLsbD k = true ∧ v.mon.outen = false ∧ v.mon.runst = false)

/-! ## The machine -/

/-- No operation is refused, stalled or aborted: every well-formed one completes
(60_exceptions.md R300). -/
def Obligations.EveryOperationCompletes : Prop :=
  ∀ (i : Instr) (s : State), i.wellFormed = true → ∃ t : State, exec i s = .next t

/-- The interrupt output is the level of a pending and enabled source (10_state.md R26). -/
def Obligations.IrqIsPendingAndEnabled : Prop :=
  ∀ s : State, s.outputs.irq = true ↔ ∃ k < 5, s.irqst.getLsbD k = true ∧ s.irqen.getLsbD k = true

/-- A step performs the operation its words decode to: a well-formed event, or a host access of any
size, that arrives while nothing else is ready is performed in the same step, on the state without
the words and without the last operation's strobe and data; an access goes behind the waiting ones,
and the oldest is performed (20_memory.md R90; the model's script and sizes, log 1, log 4, log 5). -/
def Obligations.StepPerformsDecodedOperation : Prop :=
  (∀ (s : State) (ws : List Word) (w : Bool) (o : BitVec 10) (v : Word) (n : Nat),
    s.inReset = false →
    decode .access ws = .ok (if w then .regWrite o 4 v else .regRead o 4, []) →
    (let a : Access := { write := w, offset := o, size := n, data := if w then v else 0 }
     arrive (.bus ws n) s = .ok { s with hostq := s.hostq ++ [a] } ∧
     (s.pend = Pending.empty → s.inputs.headD [] = [.bus ws n] →
       (s.hostq = [] →
         step s = exec (if w then .regWrite o n v else .regRead o n) (stepped s)) ∧
       (∀ b q, s.hostq = b :: q →
         step s = exec (if b.write then .regWrite b.offset b.size b.data
             else .regRead b.offset b.size) { stepped s with hostq := q ++ [a] })))) ∧
  (∀ (s : State) (ws : List Word) (i : Instr), s.inReset = false → s.pend = Pending.empty →
    s.inputs.headD [] = [.event ws] → decode .event ws = .ok (i, []) → i.wellFormed = true →
    step s = exec i (stepped s))

/-- The arbiter's order: EV_PWM; EV_ADC and EV_ADCERR in arrival order; EV_HALL; EV_CMT; EV_TICK;
EV_WDOG; host access (20_memory.md R91). The place of an arrival that overruns is log 3. The last
clause, that with nothing ready a step changes nothing of the block, is the model's (DEDUCED,
log 10). -/
def Obligations.ArbiterFollowsPriority : Prop :=
  ∀ s : State, s.inReset = false → s.inputs.headD [] = [] →
    (let p := s.pend
     let u := stepped s
     (p.pwm ≠ 0 → step s = exec (.evPwm p.pwm) { u with pend.pwm := 0 }) ∧
     (p.pwm = 0 →
       (∀ b, p.adc = some b → (p.adcErr = false ∨ p.adcErrFirst = false) →
         step s = exec (.evAdc b.ic b.vbemf b.vb b.tp b.ts)
           { u with pend.adc := none, pend.adcErrFirst := false }) ∧
       (p.adcErr = true → (p.adc = none ∨ p.adcErrFirst = true) →
         step s = exec .evAdcerr { u with pend.adcErr := false, pend.adcErrFirst := false }) ∧
       (p.adc = none → p.adcErr = false →
         (∀ e, p.hall = some e → step s = exec (.evHall e.h e.ts) { u with pend.hall := none }) ∧
         (p.hall = none →
           (p.cmt = true → step s = exec .evCmt { u with pend.cmt := false }) ∧
           (p.cmt = false →
             (p.tick = true → step s = exec .evTick { u with pend.tick := false }) ∧
             (p.tick = false →
               (p.wdog = true → step s = exec .evWdog { u with pend.wdog := false }) ∧
               (p.wdog = false →
                 (∀ a q, s.hostq = a :: q →
                   step s = exec (if a.write then .regWrite a.offset a.size a.data
                     else .regRead a.offset a.size) { u with hostq := q }) ∧
                 (s.hostq = [] → step s = .next u))))))))

/-- An event that arrives while one of its kind is pending replaces it with EVOVR; an arrival at an
empty latch sets no error (70_reset_and_hazards.md R331). That after an overrun EV_ADC and EV_ADCERR
stand in the order of the newest arrivals, which `adcErrFirst` holds, is the model's (DEDUCED,
log 3). -/
def Obligations.OverrunKeepsNewestPayload : Prop :=
  ∀ (s : State), s.inReset = false →
    (∀ h ts, arrive (.event (encode (.evHall h ts))) s =
      .ok (let u := { s with pend.hall := some { h := h, ts := ts } }
           if s.pend.hall.isSome then withErr 0x80 u else u)) ∧
    (∀ ic vbemf vb tp ts, arrive (.event (encode (.evAdc ic vbemf vb tp ts))) s =
      .ok (let u := { s with
             pend.adc := some { ic := ic, vbemf := vbemf, vb := vb, tp := tp, ts := ts },
             pend.adcErrFirst := s.pend.adcErr }
           if s.pend.adc.isSome then withErr 0x80 u else u)) ∧
    arrive (.event (encode .evCmt)) s =
      .ok (if s.pend.cmt then withErr 0x80 s else { s with pend.cmt := true }) ∧
    arrive (.event (encode .evTick)) s =
      .ok (if s.pend.tick then withErr 0x80 s else { s with pend.tick := true }) ∧
    arrive (.event (encode .evWdog)) s =
      .ok (if s.pend.wdog then withErr 0x80 s else { s with pend.wdog := true }) ∧
    arrive (.event (encode .evAdcerr)) s =
      .ok (let u := { s with pend.adcErr := true, pend.adcErrFirst := false }
           if s.pend.adcErr then withErr 0x80 u else u)

/-- PWM periods are never lost short of 2^32 - 1 pending: each period end adds 1, and only beyond the
counter's range is EVOVR flagged (70_reset_and_hazards.md R331), for records that carry no more than
the periods since the last performed EV_PWM (60_exceptions.md R308). A record that carries more than
the arrivals seen sets the count (DEDUCED, log 2). -/
def Obligations.PwmPeriodsAreNeverLost : Prop :=
  (∀ (cs : List Word) (s : State), s.inReset = false →
    (∀ (k : Nat) (h : k < cs.length), cs[k] ≠ 0 ∧ cs[k].toNat ≤ s.pend.pwm.toNat + k + 1) →
    ∃ t : State, arriveAll (cs.map fun c => Input.event [0x000000E0#32, c]) s = .ok t ∧
      (let n := s.pend.pwm.toNat + cs.length
       t.pend.pwm.toNat = min n (2 ^ 32 - 1) ∧
       (n ≤ 2 ^ 32 - 1 → t = { s with pend.pwm := t.pend.pwm }) ∧
       (2 ^ 32 - 1 < n → t = withErr 0x80 { s with pend.pwm := t.pend.pwm }))) ∧
  (∀ (c : Word) (s : State), s.inReset = false → s.pend.pwm.toNat + 1 < c.toNat →
    arrive (.event [0x000000E0#32, c]) s = .ok { s with pend.pwm := c })

/-- Asserting and releasing reset leaves every register, hidden bit and latch at its reset value, and
while it is asserted events are ignored, a write is ignored, a read returns 0 without error and no
operation is performed (70_reset_and_hazards.md R320; the script and the outputs of the last
operation are the model's, log 4, log 9). -/
def Obligations.ResetInputResetsEverything : Prop :=
  ∀ s : State,
    arriveAll [.resetAssert, .resetRelease] s = .ok { State.reset with inputs := s.inputs } ∧
    (s.inReset = true →
      (∀ record, arrive (.event record) s = .ok s) ∧
      (∀ o, arrive (.bus (encode (.regRead o 4)) 4) s = .ok { s with busData := some 0 }) ∧
      (∀ o v, arrive (.bus (encode (.regWrite o 4 v)) 4) s = .ok s) ∧
      perform s = .next s)

/-- What the host reads after reset (70_reset_and_hazards.md R320). -/
def Obligations.ResetValuesAsStated : Prop :=
  (∀ p ∈ [(0x004#10, 0x00000008#32), (0x008#10, 0x00C0000C#32), (0x00C#10, 0#32), (0x010#10, 0#32),
      (0x014#10, 0#32), (0x018#10, 0#32), (0x054#10, 0x7FFFFFFF#32), (0x074#10, 0x7FFFFFFF#32),
      (0x0A0#10, 0x00014000#32), (0x194#10, 0x0000B505#32), (0x19C#10, 0x00010000#32),
      (0x1C0#10, 0x7FFFFFFF#32), (0x1C8#10, 0x7FFFFFFF#32), (0x1D0#10, 0x7FFFFFFF#32),
      (0x1D8#10, 1500#32), (0x138#10, 3#32)],
    exec (.regRead p.1 4) State.reset = .next { State.reset with busData := some p.2 }) ∧
  (∀ o : BitVec 10, o.toNat % 4 = 0 → ¬ reservedOffset o.toNat →
    o ∉ [0x000#10, 0x004#10, 0x008#10, 0x054#10, 0x074#10, 0x0A0#10, 0x138#10, 0x194#10, 0x19C#10,
      0x1C0#10, 0x1C8#10, 0x1D0#10, 0x1D8#10] →
    exec (.regRead o 4) State.reset = .next { State.reset with busData := some 0 }) ∧
  State.reset.pend = Pending.empty ∧ State.reset.outputs.irq = false ∧
  State.reset.outputs.cmtarm = none

/-- The reset state has the invariants. -/
def Obligations.ResetSatisfiesInvariants : Prop := State.reset.Inv

/-- Every step keeps the invariants: each integrator within its bound, the bound the function of KI
and OUTMAX, duties within 1.0, a legal phase mask, and outputs off and not running while a fault is
latched (41_pi.md R144, R149, 42_waveform.md R176, 43_commutation.md R202, 47_fault_monitor.md R291). -/
def Obligations.StepKeepsInvariants : Prop :=
  ∀ s t : State, s.Inv → step s = .next t → t.Inv
end

