-- ==== Sys2Proof/Laws/Arith.lean ====
section
/-! SUPPORT. What each arithmetic helper can answer: ranges of clamps and products, and the narrowings
that lose nothing. -/

namespace Sys2Proof.Machine

/-! ## Integers -/

theorem clamp_le {x lo hi : Int} : clamp x lo hi ≤ hi := by simp [clamp]

theorem le_clamp {x lo hi : Int} (h : lo ≤ hi) : lo ≤ clamp x lo hi := by
  simp only [clamp]; omega

theorem clamp_of_mem {x lo hi : Int} (h : lo ≤ x ∧ x ≤ hi) : clamp x lo hi = x := by
  simp only [clamp]; omega

theorem uval_nonneg {w : Nat} (x : BitVec w) : 0 ≤ uval x := by simp [uval]

theorem uval_lt {w : Nat} (x : BitVec w) : uval x < 2 ^ w := by
  simpa [uval] using Int.ofNat_lt.2 x.isLt

theorem toNat_toNonNeg {x : Int} (h0 : 0 ≤ x) (h1 : x ≤ 0x7FFFFFFF) :
    ((toNonNeg x).toNat : Int) = x := by
  simp only [toNonNeg, BitVec.toNat_ofInt]; omega

theorem toInt_toWord {x : Int} (h0 : -2147483648 ≤ x) (h1 : x ≤ 2147483647) :
    (toWord x).toInt = x := by
  simp only [toWord, BitVec.toInt_ofInt]
  exact Int.bmod_eq_of_le (by omega) (by omega)

theorem toNat_toWord {x : Int} (h0 : 0 ≤ x) (h1 : x ≤ 4294967295) : ((toWord x).toNat : Int) = x := by
  simp only [toWord, BitVec.toNat_ofInt]; omega

theorem toNat_dropBit31 (v : Word) : (dropBit31 v).toNat = v.toNat % 2 ^ 31 := by
  simp [dropBit31]

theorem elapsed_lt (now before : Word) : elapsed now before < 2 ^ 32 := (now - before).isLt

/-! ## `fixmul` -/

theorem fits32_iff (p : Int) : fits32 p = true ↔ -2147483648 ≤ p ∧ p ≤ 2147483647 := by
  simp [fits32]

theorem fixmulOvf_eq_false {a b : Int} (h0 : -2147483648 ≤ fixprod a b)
    (h1 : fixprod a b ≤ 2147483647) : fixmulOvf a b = false := by
  simp [fixmulOvf, fits32, h0, h1]

theorem fixmul_eq_fixprod {a b : Int} (h : fixmulOvf a b = false) : fixmul a b = fixprod a b := by
  simp only [fixmulOvf, Bool.not_eq_false'] at h
  simp [fixmul, h]

/-- Whatever overflows, the result is a 32-bit signed value (00_scope.md R6). -/
theorem fixmul_range (a b : Int) : -2147483648 ≤ fixmul a b ∧ fixmul a b ≤ 2147483647 := by
  unfold fixmul
  split
  · rename_i h; exact (fits32_iff _).1 h
  · have h1 := Int.le_bmod (x := fixprod a b) (m := 4294967296) (by decide)
    have h2 := Int.bmod_lt (x := fixprod a b) (m := 4294967296) (by decide)
    omega

theorem iir3_le_max (old sample : Nat) : iir3 old sample ≤ max old sample := by
  simp only [iir3]; omega

/-! ## Sine table and duties -/

/-- Every entry of the sine ROM is in [-1.0, 1.0]. -/
theorem sinRom_bound : ∀ i < 384, -65536 ≤ sinRom i ∧ sinRom i ≤ 65536 := by decide +kernel

theorem indexA_lt (angle : Word) : indexA angle < 384 := by
  have := angle.isLt
  simp only [indexA]; omega

theorem indexB_lt {cfg : PhCfg} {dir : Bool} {i j : Nat} (h : indexB cfg dir i = some j) :
    j < 384 := by
  cases cfg <;> simp [indexB] at h <;> omega

theorem indexC_lt {cfg : PhCfg} {dir : Bool} {i j : Nat} (h : indexC cfg dir i = some j) :
    j < 384 := by
  cases cfg <;> simp [indexC] at h
  omega

/-- The product of a sine value and the amplitude never overflows (42_waveform.md R169). -/
theorem phaseValue_eq (ampeff : NonNeg) {i : Nat} (h : i < 384) :
    phaseValue ampeff i = sinRom i * (ampeff.toNat : Int) / 65536 := by
  have hb := sinRom_bound i h
  have ha := ampeff.isLt
  have h1 : sinRom i * (ampeff.toNat : Int) ≤ 65536 * (ampeff.toNat : Int) :=
    Int.mul_le_mul_of_nonneg_right hb.2 (by omega)
  have h2 : -65536 * (ampeff.toNat : Int) ≤ sinRom i * (ampeff.toNat : Int) :=
    Int.mul_le_mul_of_nonneg_right hb.1 (by omega)
  unfold phaseValue
  rw [fixmul_eq_fixprod]
  · rfl
  · refine fixmulOvf_eq_false ?_ ?_ <;> simp only [fixprod, uval] <;> omega

theorem toNat_dutyOf (v : Int) :
    ((dutyOf v).toNat : Int) = (min (max v (-65536)) 65536 + 65536) / 2 := by
  simp only [dutyOf, clamp, BitVec.toNat_ofInt]; omega

theorem dutyOf_le (v : Int) : (dutyOf v).toNat ≤ 0x10000 := by
  have := toNat_dutyOf v
  omega

theorem sineDuty_le (ampeff : NonNeg) (i : Option Nat) : (sineDuty ampeff i).toNat ≤ 0x10000 := by
  cases i with
  | none => simp [sineDuty]
  | some i => exact dutyOf_le _

/-- Every duty a waveform update computes is in [0, 1.0]. -/
theorem dutiesOf_le (c : Ctrl) (angle : Word) (ampeff : NonNeg) :
    (dutiesOf c angle ampeff).a.toNat ≤ 0x10000 ∧ (dutiesOf c angle ampeff).b.toNat ≤ 0x10000 ∧
    (dutiesOf c angle ampeff).c.toNat ≤ 0x10000 := by
  have hs := sineDuty_le ampeff
  unfold dutiesOf
  split
  · exact ⟨hs _, hs _, hs _⟩
  · split
    · exact ⟨dutyOf_le _, dutyOf_le _, dutyOf_le _⟩
    · exact ⟨hs _, hs _, hs _⟩
  all_goals
    simp only [trapDuties, BitVec.toNat_ofNat]
    omega

/-- The effective amplitude as an exact number (42_waveform.md R166). -/
theorem toNat_ampeffOf (buscomp : Bool) (w : WaveRegs) (vbus : NonNeg) :
    (ampeffOf buscomp w vbus).toNat =
      if buscomp then
        min (w.amp.toNat * w.vnom.toNat / max (max vbus.toNat w.vfloor.toNat) 1) w.ampcap.toNat
      else w.amp.toNat := by
  have := w.ampcap.isLt
  cases buscomp <;> simp only [ampeffOf, Bool.false_eq_true, ↓reduceIte, BitVec.toNat_ofNat]
  exact Nat.mod_eq_of_lt (lt_of_le_of_lt (min_le_right _ _) this)

/-! ## PI controllers -/

theorem imaxOf_le (ki outmax : Nat) : imaxOf ki outmax ≤ 0x7FFFFFFF := by
  unfold imaxOf; split <;> omega

/-- The integrator after a step is in [0, IMAX] (41_pi.md R141). -/
theorem piStepInteg_mem (p : PiRegs) : 0 ≤ piStepInteg p ∧ piStepInteg p ≤ uval p.imax :=
  ⟨le_clamp (uval_nonneg _), clamp_le⟩

theorem toNat_piStepInteg (p : PiRegs) : ((piStepRegs p).integ.toNat : Int) = piStepInteg p := by
  have h := piStepInteg_mem p
  have h2 := uval_lt p.imax
  exact toNat_toNonNeg h.1 (by omega)

/-- The contribution of an integrator within its bound does not exceed OUTMAX. -/
theorem imaxOf_contribution {ki outmax integ : Nat} (h : integ ≤ imaxOf ki outmax) :
    ki * integ / 65536 ≤ outmax := by
  unfold imaxOf at h
  split at h
  · simp_all
  · have h1 : integ ≤ outmax * 65536 / ki := by omega
    have h2 : ki * integ ≤ outmax * 65536 :=
      (Nat.mul_le_mul_left ki h1).trans (Nat.mul_div_le _ _)
    omega

/-! ## Detector -/

/-- The delay is at least one tick and fits the register (45_bemf.md R236). -/
theorem commutationDelay_range {avg latency pwmper : Nat} (h : avg < 2 ^ 32) :
    1 ≤ commutationDelay avg latency pwmper ∧ commutationDelay avg latency pwmper < 2 ^ 31 := by
  simp only [commutationDelay]; omega

theorem smoothedPeriod_lt (ts : Word) (z : ZcRegs) : smoothedPeriod ts z < 2 ^ 32 := by
  have h1 := z.avgper.isLt
  have h2 := elapsed_lt ts z.lastzc
  simp only [smoothedPeriod, iir3]; split <;> omega

end Sys2Proof.Machine
end

