-- ==== Sys2Proof/Laws/State.lean ====
section
/-! SUPPORT. One lemma for each field under each named update of the state, so that no later proof
unfolds a record update. -/

namespace Sys2Proof.Machine

/-! ## `State.setIrq` -/

@[simp] theorem setIrq_ctrl (b : IrqBit) (s : State) :
    (s.setIrq b).ctrl = s.ctrl := rfl

@[simp] theorem setIrq_err (b : IrqBit) (s : State) :
    (s.setIrq b).err = s.err := rfl

@[simp] theorem setIrq_fault (b : IrqBit) (s : State) :
    (s.setIrq b).fault = s.fault := rfl

@[simp] theorem setIrq_irqen (b : IrqBit) (s : State) :
    (s.setIrq b).irqen = s.irqen := rfl

@[simp] theorem setIrq_irqst (b : IrqBit) (s : State) :
    (s.setIrq b).irqst = s.irqst ||| b.mask := rfl

@[simp] theorem setIrq_arg (b : IrqBit) (s : State) :
    (s.setIrq b).arg = s.arg := rfl

@[simp] theorem setIrq_pi0 (b : IrqBit) (s : State) :
    (s.setIrq b).pi0 = s.pi0 := rfl

@[simp] theorem setIrq_pi1 (b : IrqBit) (s : State) :
    (s.setIrq b).pi1 = s.pi1 := rfl

@[simp] theorem setIrq_wave (b : IrqBit) (s : State) :
    (s.setIrq b).wave = s.wave := rfl

@[simp] theorem setIrq_cmt (b : IrqBit) (s : State) :
    (s.setIrq b).cmt = s.cmt := rfl

@[simp] theorem setIrq_zc (b : IrqBit) (s : State) :
    (s.setIrq b).zc = s.zc := rfl

@[simp] theorem setIrq_spd (b : IrqBit) (s : State) :
    (s.setIrq b).spd = s.spd := rfl

@[simp] theorem setIrq_cur (b : IrqBit) (s : State) :
    (s.setIrq b).cur = s.cur := rfl

@[simp] theorem setIrq_mon (b : IrqBit) (s : State) :
    (s.setIrq b).mon = s.mon := rfl

@[simp] theorem setIrq_pend (b : IrqBit) (s : State) :
    (s.setIrq b).pend = s.pend := rfl

@[simp] theorem setIrq_hostq (b : IrqBit) (s : State) :
    (s.setIrq b).hostq = s.hostq := rfl

@[simp] theorem setIrq_inReset (b : IrqBit) (s : State) :
    (s.setIrq b).inReset = s.inReset := rfl

@[simp] theorem setIrq_inputs (b : IrqBit) (s : State) :
    (s.setIrq b).inputs = s.inputs := rfl

@[simp] theorem setIrq_busData (b : IrqBit) (s : State) :
    (s.setIrq b).busData = s.busData := rfl

@[simp] theorem setIrq_cmtarm (b : IrqBit) (s : State) :
    (s.setIrq b).cmtarm = s.cmtarm := rfl

/-! ## `State.flag` -/

@[simp] theorem flag_ctrl (e : ErrBit) (s : State) :
    (s.flag e).ctrl = s.ctrl := rfl

@[simp] theorem flag_err (e : ErrBit) (s : State) :
    (s.flag e).err = s.err ||| e.mask := rfl

@[simp] theorem flag_fault (e : ErrBit) (s : State) :
    (s.flag e).fault = s.fault := rfl

@[simp] theorem flag_irqen (e : ErrBit) (s : State) :
    (s.flag e).irqen = s.irqen := rfl

@[simp] theorem flag_irqst (e : ErrBit) (s : State) :
    (s.flag e).irqst = s.irqst ||| IrqBit.err.mask := rfl

@[simp] theorem flag_arg (e : ErrBit) (s : State) :
    (s.flag e).arg = s.arg := rfl

@[simp] theorem flag_pi0 (e : ErrBit) (s : State) :
    (s.flag e).pi0 = s.pi0 := rfl

@[simp] theorem flag_pi1 (e : ErrBit) (s : State) :
    (s.flag e).pi1 = s.pi1 := rfl

@[simp] theorem flag_wave (e : ErrBit) (s : State) :
    (s.flag e).wave = s.wave := rfl

@[simp] theorem flag_cmt (e : ErrBit) (s : State) :
    (s.flag e).cmt = s.cmt := rfl

@[simp] theorem flag_zc (e : ErrBit) (s : State) :
    (s.flag e).zc = s.zc := rfl

@[simp] theorem flag_spd (e : ErrBit) (s : State) :
    (s.flag e).spd = s.spd := rfl

@[simp] theorem flag_cur (e : ErrBit) (s : State) :
    (s.flag e).cur = s.cur := rfl

@[simp] theorem flag_mon (e : ErrBit) (s : State) :
    (s.flag e).mon = s.mon := rfl

@[simp] theorem flag_pend (e : ErrBit) (s : State) :
    (s.flag e).pend = s.pend := rfl

@[simp] theorem flag_hostq (e : ErrBit) (s : State) :
    (s.flag e).hostq = s.hostq := rfl

@[simp] theorem flag_inReset (e : ErrBit) (s : State) :
    (s.flag e).inReset = s.inReset := rfl

@[simp] theorem flag_inputs (e : ErrBit) (s : State) :
    (s.flag e).inputs = s.inputs := rfl

@[simp] theorem flag_busData (e : ErrBit) (s : State) :
    (s.flag e).busData = s.busData := rfl

@[simp] theorem flag_cmtarm (e : ErrBit) (s : State) :
    (s.flag e).cmtarm = s.cmtarm := rfl

/-! ## `State.raise` -/

@[simp] theorem raise_ctrl (e : ErrBit) (s : State) :
    (s.raise e).ctrl = s.ctrl := rfl

@[simp] theorem raise_err (e : ErrBit) (s : State) :
    (s.raise e).err = s.err ||| e.mask := rfl

@[simp] theorem raise_fault (e : ErrBit) (s : State) :
    (s.raise e).fault = s.fault := rfl

@[simp] theorem raise_irqen (e : ErrBit) (s : State) :
    (s.raise e).irqen = s.irqen := rfl

@[simp] theorem raise_irqst (e : ErrBit) (s : State) :
    (s.raise e).irqst = s.irqst ||| IrqBit.err.mask := rfl

@[simp] theorem raise_arg (e : ErrBit) (s : State) :
    (s.raise e).arg = s.arg := rfl

@[simp] theorem raise_pi0 (e : ErrBit) (s : State) :
    (s.raise e).pi0 = s.pi0 := rfl

@[simp] theorem raise_pi1 (e : ErrBit) (s : State) :
    (s.raise e).pi1 = s.pi1 := rfl

@[simp] theorem raise_wave (e : ErrBit) (s : State) :
    (s.raise e).wave = s.wave := rfl

@[simp] theorem raise_cmt (e : ErrBit) (s : State) :
    (s.raise e).cmt = s.cmt := rfl

@[simp] theorem raise_zc (e : ErrBit) (s : State) :
    (s.raise e).zc = s.zc := rfl

@[simp] theorem raise_spd (e : ErrBit) (s : State) :
    (s.raise e).spd = s.spd := rfl

@[simp] theorem raise_cur (e : ErrBit) (s : State) :
    (s.raise e).cur = s.cur := rfl

@[simp] theorem raise_mon (e : ErrBit) (s : State) :
    (s.raise e).mon = s.mon := rfl

@[simp] theorem raise_pend (e : ErrBit) (s : State) :
    (s.raise e).pend = s.pend := rfl

@[simp] theorem raise_hostq (e : ErrBit) (s : State) :
    (s.raise e).hostq = s.hostq := rfl

@[simp] theorem raise_inReset (e : ErrBit) (s : State) :
    (s.raise e).inReset = s.inReset := rfl

@[simp] theorem raise_inputs (e : ErrBit) (s : State) :
    (s.raise e).inputs = s.inputs := rfl

@[simp] theorem raise_busData (e : ErrBit) (s : State) :
    (s.raise e).busData = s.busData := rfl

@[simp] theorem raise_cmtarm (e : ErrBit) (s : State) :
    (s.raise e).cmtarm = s.cmtarm := rfl

/-! ## `State.latchFault` -/

@[simp] theorem latchFault_ctrl (held : BitVec 8) (s : State) :
    (s.latchFault held).ctrl = s.ctrl := rfl

@[simp] theorem latchFault_err (held : BitVec 8) (s : State) :
    (s.latchFault held).err = s.err := rfl

@[simp] theorem latchFault_fault (held : BitVec 8) (s : State) :
    (s.latchFault held).fault = s.fault ||| held := rfl

@[simp] theorem latchFault_irqen (held : BitVec 8) (s : State) :
    (s.latchFault held).irqen = s.irqen := rfl

@[simp] theorem latchFault_irqst (held : BitVec 8) (s : State) :
    (s.latchFault held).irqst = s.irqst := rfl

@[simp] theorem latchFault_arg (held : BitVec 8) (s : State) :
    (s.latchFault held).arg = s.arg := rfl

@[simp] theorem latchFault_pi0 (held : BitVec 8) (s : State) :
    (s.latchFault held).pi0 = s.pi0 := rfl

@[simp] theorem latchFault_pi1 (held : BitVec 8) (s : State) :
    (s.latchFault held).pi1 = s.pi1 := rfl

@[simp] theorem latchFault_wave (held : BitVec 8) (s : State) :
    (s.latchFault held).wave = s.wave := rfl

@[simp] theorem latchFault_cmt (held : BitVec 8) (s : State) :
    (s.latchFault held).cmt = s.cmt := rfl

@[simp] theorem latchFault_zc (held : BitVec 8) (s : State) :
    (s.latchFault held).zc = s.zc := rfl

@[simp] theorem latchFault_spd (held : BitVec 8) (s : State) :
    (s.latchFault held).spd = s.spd := rfl

@[simp] theorem latchFault_cur (held : BitVec 8) (s : State) :
    (s.latchFault held).cur = s.cur := rfl

@[simp] theorem latchFault_mon (held : BitVec 8) (s : State) :
    (s.latchFault held).mon = s.mon := rfl

@[simp] theorem latchFault_pend (held : BitVec 8) (s : State) :
    (s.latchFault held).pend = s.pend := rfl

@[simp] theorem latchFault_hostq (held : BitVec 8) (s : State) :
    (s.latchFault held).hostq = s.hostq := rfl

@[simp] theorem latchFault_inReset (held : BitVec 8) (s : State) :
    (s.latchFault held).inReset = s.inReset := rfl

@[simp] theorem latchFault_inputs (held : BitVec 8) (s : State) :
    (s.latchFault held).inputs = s.inputs := rfl

@[simp] theorem latchFault_busData (held : BitVec 8) (s : State) :
    (s.latchFault held).busData = s.busData := rfl

@[simp] theorem latchFault_cmtarm (held : BitVec 8) (s : State) :
    (s.latchFault held).cmtarm = s.cmtarm := rfl

/-! ## `speedFresh` -/

@[simp] theorem speedFresh_ctrl (s : State) :
    (speedFresh s).ctrl = s.ctrl := rfl

@[simp] theorem speedFresh_err (s : State) :
    (speedFresh s).err = s.err := rfl

@[simp] theorem speedFresh_fault (s : State) :
    (speedFresh s).fault = s.fault := rfl

@[simp] theorem speedFresh_irqen (s : State) :
    (speedFresh s).irqen = s.irqen := rfl

@[simp] theorem speedFresh_irqst (s : State) :
    (speedFresh s).irqst = s.irqst := rfl

@[simp] theorem speedFresh_arg (s : State) :
    (speedFresh s).arg = s.arg := rfl

@[simp] theorem speedFresh_pi0 (s : State) :
    (speedFresh s).pi0 = s.pi0 := rfl

@[simp] theorem speedFresh_pi1 (s : State) :
    (speedFresh s).pi1 = s.pi1 := rfl

@[simp] theorem speedFresh_wave (s : State) :
    (speedFresh s).wave = s.wave := rfl

@[simp] theorem speedFresh_cmt (s : State) :
    (speedFresh s).cmt = s.cmt := rfl

@[simp] theorem speedFresh_zc (s : State) :
    (speedFresh s).zc = s.zc := rfl

@[simp] theorem speedFresh_spd (s : State) :
    (speedFresh s).spd = s.spd.fresh := rfl

@[simp] theorem speedFresh_cur (s : State) :
    (speedFresh s).cur = s.cur := rfl

@[simp] theorem speedFresh_mon (s : State) :
    (speedFresh s).mon = s.mon := rfl

@[simp] theorem speedFresh_pend (s : State) :
    (speedFresh s).pend = s.pend := rfl

@[simp] theorem speedFresh_hostq (s : State) :
    (speedFresh s).hostq = s.hostq := rfl

@[simp] theorem speedFresh_inReset (s : State) :
    (speedFresh s).inReset = s.inReset := rfl

@[simp] theorem speedFresh_inputs (s : State) :
    (speedFresh s).inputs = s.inputs := rfl

@[simp] theorem speedFresh_busData (s : State) :
    (speedFresh s).busData = s.busData := rfl

@[simp] theorem speedFresh_cmtarm (s : State) :
    (speedFresh s).cmtarm = s.cmtarm := rfl

/-! ## `trip` -/

@[simp] theorem trip_ctrl (s : State) :
    (trip s).ctrl = s.ctrl := rfl

@[simp] theorem trip_err (s : State) :
    (trip s).err = s.err := rfl

@[simp] theorem trip_fault (s : State) :
    (trip s).fault = s.fault := rfl

@[simp] theorem trip_irqen (s : State) :
    (trip s).irqen = s.irqen := rfl

@[simp] theorem trip_irqst (s : State) :
    (trip s).irqst = s.irqst := rfl

@[simp] theorem trip_arg (s : State) :
    (trip s).arg = s.arg := rfl

@[simp] theorem trip_pi0 (s : State) :
    (trip s).pi0 = s.pi0 := rfl

@[simp] theorem trip_pi1 (s : State) :
    (trip s).pi1 = s.pi1 := rfl

@[simp] theorem trip_wave (s : State) :
    (trip s).wave = s.wave := rfl

@[simp] theorem trip_cmt (s : State) :
    (trip s).cmt = s.cmt := rfl

@[simp] theorem trip_zc (s : State) :
    (trip s).zc = s.zc := rfl

@[simp] theorem trip_spd (s : State) :
    (trip s).spd = s.spd.fresh := rfl

@[simp] theorem trip_cur (s : State) :
    (trip s).cur = s.cur := rfl

@[simp] theorem trip_mon (s : State) :
    (trip s).mon = { s.mon with outen := false, runst := false, stallcnt := 0 } := rfl

@[simp] theorem trip_pend (s : State) :
    (trip s).pend = s.pend := rfl

@[simp] theorem trip_hostq (s : State) :
    (trip s).hostq = s.hostq := rfl

@[simp] theorem trip_inReset (s : State) :
    (trip s).inReset = s.inReset := rfl

@[simp] theorem trip_inputs (s : State) :
    (trip s).inputs = s.inputs := rfl

@[simp] theorem trip_busData (s : State) :
    (trip s).busData = s.busData := rfl

@[simp] theorem trip_cmtarm (s : State) :
    (trip s).cmtarm = s.cmtarm := rfl

/-! ## `takeFault` -/

@[simp] theorem takeFault_ctrl (held : BitVec 8) (s : State) :
    (takeFault held s).ctrl = s.ctrl := rfl

@[simp] theorem takeFault_err (held : BitVec 8) (s : State) :
    (takeFault held s).err = s.err := rfl

@[simp] theorem takeFault_fault (held : BitVec 8) (s : State) :
    (takeFault held s).fault = s.fault ||| held := rfl

@[simp] theorem takeFault_irqen (held : BitVec 8) (s : State) :
    (takeFault held s).irqen = s.irqen := rfl

@[simp] theorem takeFault_irqst (held : BitVec 8) (s : State) :
    (takeFault held s).irqst = s.irqst ||| IrqBit.fault.mask := rfl

@[simp] theorem takeFault_arg (held : BitVec 8) (s : State) :
    (takeFault held s).arg = s.arg := rfl

@[simp] theorem takeFault_pi0 (held : BitVec 8) (s : State) :
    (takeFault held s).pi0 = s.pi0 := rfl

@[simp] theorem takeFault_pi1 (held : BitVec 8) (s : State) :
    (takeFault held s).pi1 = s.pi1 := rfl

@[simp] theorem takeFault_wave (held : BitVec 8) (s : State) :
    (takeFault held s).wave = s.wave := rfl

@[simp] theorem takeFault_cmt (held : BitVec 8) (s : State) :
    (takeFault held s).cmt = s.cmt := rfl

@[simp] theorem takeFault_zc (held : BitVec 8) (s : State) :
    (takeFault held s).zc = s.zc := rfl

@[simp] theorem takeFault_spd (held : BitVec 8) (s : State) :
    (takeFault held s).spd = s.spd.fresh := rfl

@[simp] theorem takeFault_cur (held : BitVec 8) (s : State) :
    (takeFault held s).cur = s.cur := rfl

@[simp] theorem takeFault_mon (held : BitVec 8) (s : State) :
    (takeFault held s).mon = { s.mon with outen := false, runst := false, stallcnt := 0 } := rfl

@[simp] theorem takeFault_pend (held : BitVec 8) (s : State) :
    (takeFault held s).pend = s.pend := rfl

@[simp] theorem takeFault_hostq (held : BitVec 8) (s : State) :
    (takeFault held s).hostq = s.hostq := rfl

@[simp] theorem takeFault_inReset (held : BitVec 8) (s : State) :
    (takeFault held s).inReset = s.inReset := rfl

@[simp] theorem takeFault_inputs (held : BitVec 8) (s : State) :
    (takeFault held s).inputs = s.inputs := rfl

@[simp] theorem takeFault_busData (held : BitVec 8) (s : State) :
    (takeFault held s).busData = s.busData := rfl

@[simp] theorem takeFault_cmtarm (held : BitVec 8) (s : State) :
    (takeFault held s).cmtarm = s.cmtarm := rfl

/-! ## `clearFaults` -/

@[simp] theorem clearFaults_ctrl (s : State) :
    (clearFaults s).ctrl = s.ctrl := rfl

@[simp] theorem clearFaults_err (s : State) :
    (clearFaults s).err = s.err := rfl

@[simp] theorem clearFaults_fault (s : State) :
    (clearFaults s).fault = 0 := rfl

@[simp] theorem clearFaults_irqen (s : State) :
    (clearFaults s).irqen = s.irqen := rfl

@[simp] theorem clearFaults_irqst (s : State) :
    (clearFaults s).irqst = s.irqst := rfl

@[simp] theorem clearFaults_arg (s : State) :
    (clearFaults s).arg = s.arg := rfl

@[simp] theorem clearFaults_pi0 (s : State) :
    (clearFaults s).pi0 = s.pi0 := rfl

@[simp] theorem clearFaults_pi1 (s : State) :
    (clearFaults s).pi1 = s.pi1 := rfl

@[simp] theorem clearFaults_wave (s : State) :
    (clearFaults s).wave = s.wave := rfl

@[simp] theorem clearFaults_cmt (s : State) :
    (clearFaults s).cmt = s.cmt := rfl

@[simp] theorem clearFaults_zc (s : State) :
    (clearFaults s).zc = s.zc := rfl

@[simp] theorem clearFaults_spd (s : State) :
    (clearFaults s).spd = s.spd := rfl

@[simp] theorem clearFaults_cur (s : State) :
    (clearFaults s).cur = s.cur := rfl

@[simp] theorem clearFaults_mon (s : State) :
    (clearFaults s).mon = s.mon := rfl

@[simp] theorem clearFaults_pend (s : State) :
    (clearFaults s).pend = s.pend := rfl

@[simp] theorem clearFaults_hostq (s : State) :
    (clearFaults s).hostq = s.hostq := rfl

@[simp] theorem clearFaults_inReset (s : State) :
    (clearFaults s).inReset = s.inReset := rfl

@[simp] theorem clearFaults_inputs (s : State) :
    (clearFaults s).inputs = s.inputs := rfl

@[simp] theorem clearFaults_busData (s : State) :
    (clearFaults s).busData = s.busData := rfl

@[simp] theorem clearFaults_cmtarm (s : State) :
    (clearFaults s).cmtarm = s.cmtarm := rfl

/-! ## `speedAge` -/

@[simp] theorem speedAge_ctrl (s : State) :
    (speedAge s).ctrl = s.ctrl := rfl

@[simp] theorem speedAge_err (s : State) :
    (speedAge s).err = s.err := rfl

@[simp] theorem speedAge_fault (s : State) :
    (speedAge s).fault = s.fault := rfl

@[simp] theorem speedAge_irqen (s : State) :
    (speedAge s).irqen = s.irqen := rfl

@[simp] theorem speedAge_irqst (s : State) :
    (speedAge s).irqst = s.irqst := rfl

@[simp] theorem speedAge_arg (s : State) :
    (speedAge s).arg = s.arg := rfl

@[simp] theorem speedAge_pi0 (s : State) :
    (speedAge s).pi0 = s.pi0 := rfl

@[simp] theorem speedAge_pi1 (s : State) :
    (speedAge s).pi1 = s.pi1 := rfl

@[simp] theorem speedAge_wave (s : State) :
    (speedAge s).wave = s.wave := rfl

@[simp] theorem speedAge_cmt (s : State) :
    (speedAge s).cmt = s.cmt := rfl

@[simp] theorem speedAge_zc (s : State) :
    (speedAge s).zc = s.zc := rfl

@[simp] theorem speedAge_spd (s : State) :
    (speedAge s).spd = speedAgeRegs s.spd := rfl

@[simp] theorem speedAge_cur (s : State) :
    (speedAge s).cur = s.cur := rfl

@[simp] theorem speedAge_mon (s : State) :
    (speedAge s).mon = s.mon := rfl

@[simp] theorem speedAge_pend (s : State) :
    (speedAge s).pend = s.pend := rfl

@[simp] theorem speedAge_hostq (s : State) :
    (speedAge s).hostq = s.hostq := rfl

@[simp] theorem speedAge_inReset (s : State) :
    (speedAge s).inReset = s.inReset := rfl

@[simp] theorem speedAge_inputs (s : State) :
    (speedAge s).inputs = s.inputs := rfl

@[simp] theorem speedAge_busData (s : State) :
    (speedAge s).busData = s.busData := rfl

@[simp] theorem speedAge_cmtarm (s : State) :
    (speedAge s).cmtarm = s.cmtarm := rfl

/-! ## `monTick` -/

@[simp] theorem monTick_ctrl (s : State) :
    (monTick s).ctrl = s.ctrl := rfl

@[simp] theorem monTick_err (s : State) :
    (monTick s).err = s.err := rfl

@[simp] theorem monTick_fault (s : State) :
    (monTick s).fault = s.fault := rfl

@[simp] theorem monTick_irqen (s : State) :
    (monTick s).irqen = s.irqen := rfl

@[simp] theorem monTick_irqst (s : State) :
    (monTick s).irqst = s.irqst := rfl

@[simp] theorem monTick_arg (s : State) :
    (monTick s).arg = s.arg := rfl

@[simp] theorem monTick_pi0 (s : State) :
    (monTick s).pi0 = s.pi0 := rfl

@[simp] theorem monTick_pi1 (s : State) :
    (monTick s).pi1 = s.pi1 := rfl

@[simp] theorem monTick_wave (s : State) :
    (monTick s).wave = s.wave := rfl

@[simp] theorem monTick_cmt (s : State) :
    (monTick s).cmt = s.cmt := rfl

@[simp] theorem monTick_zc (s : State) :
    (monTick s).zc = s.zc := rfl

@[simp] theorem monTick_spd (s : State) :
    (monTick s).spd = s.spd := rfl

@[simp] theorem monTick_cur (s : State) :
    (monTick s).cur = s.cur := rfl

@[simp] theorem monTick_mon (s : State) :
    (monTick s).mon = { s.mon with
      stallcnt := BitVec.ofNat 16 (stallCount s.mon s.spd.mspeed), wdflag := false } := rfl

@[simp] theorem monTick_pend (s : State) :
    (monTick s).pend = s.pend := rfl

@[simp] theorem monTick_hostq (s : State) :
    (monTick s).hostq = s.hostq := rfl

@[simp] theorem monTick_inReset (s : State) :
    (monTick s).inReset = s.inReset := rfl

@[simp] theorem monTick_inputs (s : State) :
    (monTick s).inputs = s.inputs := rfl

@[simp] theorem monTick_busData (s : State) :
    (monTick s).busData = s.busData := rfl

@[simp] theorem monTick_cmtarm (s : State) :
    (monTick s).cmtarm = s.cmtarm := rfl

/-! ## `zcArm` -/

@[simp] theorem zcArm_ctrl (s : State) :
    (zcArm s).ctrl = s.ctrl := rfl

@[simp] theorem zcArm_err (s : State) :
    (zcArm s).err = s.err := rfl

@[simp] theorem zcArm_fault (s : State) :
    (zcArm s).fault = s.fault := rfl

@[simp] theorem zcArm_irqen (s : State) :
    (zcArm s).irqen = s.irqen := rfl

@[simp] theorem zcArm_irqst (s : State) :
    (zcArm s).irqst = s.irqst := rfl

@[simp] theorem zcArm_arg (s : State) :
    (zcArm s).arg = s.arg := rfl

@[simp] theorem zcArm_pi0 (s : State) :
    (zcArm s).pi0 = s.pi0 := rfl

@[simp] theorem zcArm_pi1 (s : State) :
    (zcArm s).pi1 = s.pi1 := rfl

@[simp] theorem zcArm_wave (s : State) :
    (zcArm s).wave = s.wave := rfl

@[simp] theorem zcArm_cmt (s : State) :
    (zcArm s).cmt = s.cmt := rfl

@[simp] theorem zcArm_zc (s : State) :
    (zcArm s).zc = { s.zc with skipcnt := s.zc.skiprst, zcdone := false } := rfl

@[simp] theorem zcArm_spd (s : State) :
    (zcArm s).spd = s.spd := rfl

@[simp] theorem zcArm_cur (s : State) :
    (zcArm s).cur = s.cur := rfl

@[simp] theorem zcArm_mon (s : State) :
    (zcArm s).mon = s.mon := rfl

@[simp] theorem zcArm_pend (s : State) :
    (zcArm s).pend = s.pend := rfl

@[simp] theorem zcArm_hostq (s : State) :
    (zcArm s).hostq = s.hostq := rfl

@[simp] theorem zcArm_inReset (s : State) :
    (zcArm s).inReset = s.inReset := rfl

@[simp] theorem zcArm_inputs (s : State) :
    (zcArm s).inputs = s.inputs := rfl

@[simp] theorem zcArm_busData (s : State) :
    (zcArm s).busData = s.busData := rfl

@[simp] theorem zcArm_cmtarm (s : State) :
    (zcArm s).cmtarm = s.cmtarm := rfl

/-! ## `beginStep` -/

@[simp] theorem beginStep_ctrl (s : State) :
    (beginStep s).ctrl = s.ctrl := rfl

@[simp] theorem beginStep_err (s : State) :
    (beginStep s).err = s.err := rfl

@[simp] theorem beginStep_fault (s : State) :
    (beginStep s).fault = s.fault := rfl

@[simp] theorem beginStep_irqen (s : State) :
    (beginStep s).irqen = s.irqen := rfl

@[simp] theorem beginStep_irqst (s : State) :
    (beginStep s).irqst = s.irqst := rfl

@[simp] theorem beginStep_arg (s : State) :
    (beginStep s).arg = s.arg := rfl

@[simp] theorem beginStep_pi0 (s : State) :
    (beginStep s).pi0 = s.pi0 := rfl

@[simp] theorem beginStep_pi1 (s : State) :
    (beginStep s).pi1 = s.pi1 := rfl

@[simp] theorem beginStep_wave (s : State) :
    (beginStep s).wave = s.wave := rfl

@[simp] theorem beginStep_cmt (s : State) :
    (beginStep s).cmt = s.cmt := rfl

@[simp] theorem beginStep_zc (s : State) :
    (beginStep s).zc = s.zc := rfl

@[simp] theorem beginStep_spd (s : State) :
    (beginStep s).spd = s.spd := rfl

@[simp] theorem beginStep_cur (s : State) :
    (beginStep s).cur = s.cur := rfl

@[simp] theorem beginStep_mon (s : State) :
    (beginStep s).mon = s.mon := rfl

@[simp] theorem beginStep_pend (s : State) :
    (beginStep s).pend = s.pend := rfl

@[simp] theorem beginStep_hostq (s : State) :
    (beginStep s).hostq = s.hostq := rfl

@[simp] theorem beginStep_inReset (s : State) :
    (beginStep s).inReset = s.inReset := rfl

@[simp] theorem beginStep_inputs (s : State) :
    (beginStep s).inputs = s.inputs.tail := rfl

@[simp] theorem beginStep_busData (s : State) :
    (beginStep s).busData = none := rfl

@[simp] theorem beginStep_cmtarm (s : State) :
    (beginStep s).cmtarm = none := rfl

/-! ## `State.setPi` -/

@[simp] theorem setPi_ctrl (n : Fin 2) (p : PiRegs) (s : State) :
    (s.setPi n p).ctrl = s.ctrl := by
  unfold State.setPi; split <;> rfl

@[simp] theorem setPi_err (n : Fin 2) (p : PiRegs) (s : State) :
    (s.setPi n p).err = s.err := by
  unfold State.setPi; split <;> rfl

@[simp] theorem setPi_fault (n : Fin 2) (p : PiRegs) (s : State) :
    (s.setPi n p).fault = s.fault := by
  unfold State.setPi; split <;> rfl

@[simp] theorem setPi_irqen (n : Fin 2) (p : PiRegs) (s : State) :
    (s.setPi n p).irqen = s.irqen := by
  unfold State.setPi; split <;> rfl

@[simp] theorem setPi_irqst (n : Fin 2) (p : PiRegs) (s : State) :
    (s.setPi n p).irqst = s.irqst := by
  unfold State.setPi; split <;> rfl

@[simp] theorem setPi_arg (n : Fin 2) (p : PiRegs) (s : State) :
    (s.setPi n p).arg = s.arg := by
  unfold State.setPi; split <;> rfl

@[simp] theorem setPi_wave (n : Fin 2) (p : PiRegs) (s : State) :
    (s.setPi n p).wave = s.wave := by
  unfold State.setPi; split <;> rfl

@[simp] theorem setPi_cmt (n : Fin 2) (p : PiRegs) (s : State) :
    (s.setPi n p).cmt = s.cmt := by
  unfold State.setPi; split <;> rfl

@[simp] theorem setPi_zc (n : Fin 2) (p : PiRegs) (s : State) :
    (s.setPi n p).zc = s.zc := by
  unfold State.setPi; split <;> rfl

@[simp] theorem setPi_spd (n : Fin 2) (p : PiRegs) (s : State) :
    (s.setPi n p).spd = s.spd := by
  unfold State.setPi; split <;> rfl

@[simp] theorem setPi_cur (n : Fin 2) (p : PiRegs) (s : State) :
    (s.setPi n p).cur = s.cur := by
  unfold State.setPi; split <;> rfl

@[simp] theorem setPi_mon (n : Fin 2) (p : PiRegs) (s : State) :
    (s.setPi n p).mon = s.mon := by
  unfold State.setPi; split <;> rfl

@[simp] theorem setPi_pend (n : Fin 2) (p : PiRegs) (s : State) :
    (s.setPi n p).pend = s.pend := by
  unfold State.setPi; split <;> rfl

@[simp] theorem setPi_hostq (n : Fin 2) (p : PiRegs) (s : State) :
    (s.setPi n p).hostq = s.hostq := by
  unfold State.setPi; split <;> rfl

@[simp] theorem setPi_inReset (n : Fin 2) (p : PiRegs) (s : State) :
    (s.setPi n p).inReset = s.inReset := by
  unfold State.setPi; split <;> rfl

@[simp] theorem setPi_inputs (n : Fin 2) (p : PiRegs) (s : State) :
    (s.setPi n p).inputs = s.inputs := by
  unfold State.setPi; split <;> rfl

@[simp] theorem setPi_busData (n : Fin 2) (p : PiRegs) (s : State) :
    (s.setPi n p).busData = s.busData := by
  unfold State.setPi; split <;> rfl

@[simp] theorem setPi_cmtarm (n : Fin 2) (p : PiRegs) (s : State) :
    (s.setPi n p).cmtarm = s.cmtarm := by
  unfold State.setPi; split <;> rfl

@[simp] theorem pi_zero (s : State) : s.pi 0 = s.pi0 := rfl

@[simp] theorem pi_one (s : State) : s.pi 1 = s.pi1 := rfl

@[simp] theorem setPi_zero (p : PiRegs) (s : State) : s.setPi 0 p = { s with pi0 := p } := rfl

@[simp] theorem setPi_one (p : PiRegs) (s : State) : s.setPi 1 p = { s with pi1 := p } := rfl

/-- The other instance keeps its registers (41_pi.md R140). -/
theorem setPi_pi (n m : Fin 2) (p : PiRegs) (s : State) :
    (s.setPi n p).pi m = if m = n then p else s.pi m := by
  match n, m with
  | 0, 0 | 0, 1 | 1, 0 | 1, 1 => rfl

@[simp] theorem setPi_pi_self (n : Fin 2) (p : PiRegs) (s : State) : (s.setPi n p).pi n = p := by
  simp [setPi_pi]

/-! ## `State.flagIf` -/

@[simp] theorem flagIf_true (e : ErrBit) (s : State) : s.flagIf true e = s.flag e := rfl

@[simp] theorem flagIf_false (e : ErrBit) (s : State) : s.flagIf false e = s := rfl

/-- All that a conditional flag can do. -/
theorem flagIf_eq (b : Bool) (e : ErrBit) (s : State) :
    s.flagIf b e = { s with
      err := s.err ||| if b then e.mask else 0
      irqst := s.irqst ||| if b then IrqBit.err.mask else 0 } := by
  cases b <;> simp [State.flag]

@[simp] theorem flagIf_ctrl (b : Bool) (e : ErrBit) (s : State) :
    (s.flagIf b e).ctrl = s.ctrl := by
  cases b <;> rfl

@[simp] theorem flagIf_fault (b : Bool) (e : ErrBit) (s : State) :
    (s.flagIf b e).fault = s.fault := by
  cases b <;> rfl

@[simp] theorem flagIf_irqen (b : Bool) (e : ErrBit) (s : State) :
    (s.flagIf b e).irqen = s.irqen := by
  cases b <;> rfl

@[simp] theorem flagIf_arg (b : Bool) (e : ErrBit) (s : State) :
    (s.flagIf b e).arg = s.arg := by
  cases b <;> rfl

@[simp] theorem flagIf_pi0 (b : Bool) (e : ErrBit) (s : State) :
    (s.flagIf b e).pi0 = s.pi0 := by
  cases b <;> rfl

@[simp] theorem flagIf_pi1 (b : Bool) (e : ErrBit) (s : State) :
    (s.flagIf b e).pi1 = s.pi1 := by
  cases b <;> rfl

@[simp] theorem flagIf_wave (b : Bool) (e : ErrBit) (s : State) :
    (s.flagIf b e).wave = s.wave := by
  cases b <;> rfl

@[simp] theorem flagIf_cmt (b : Bool) (e : ErrBit) (s : State) :
    (s.flagIf b e).cmt = s.cmt := by
  cases b <;> rfl

@[simp] theorem flagIf_zc (b : Bool) (e : ErrBit) (s : State) :
    (s.flagIf b e).zc = s.zc := by
  cases b <;> rfl

@[simp] theorem flagIf_spd (b : Bool) (e : ErrBit) (s : State) :
    (s.flagIf b e).spd = s.spd := by
  cases b <;> rfl

@[simp] theorem flagIf_cur (b : Bool) (e : ErrBit) (s : State) :
    (s.flagIf b e).cur = s.cur := by
  cases b <;> rfl

@[simp] theorem flagIf_mon (b : Bool) (e : ErrBit) (s : State) :
    (s.flagIf b e).mon = s.mon := by
  cases b <;> rfl

@[simp] theorem flagIf_pend (b : Bool) (e : ErrBit) (s : State) :
    (s.flagIf b e).pend = s.pend := by
  cases b <;> rfl

@[simp] theorem flagIf_hostq (b : Bool) (e : ErrBit) (s : State) :
    (s.flagIf b e).hostq = s.hostq := by
  cases b <;> rfl

@[simp] theorem flagIf_inReset (b : Bool) (e : ErrBit) (s : State) :
    (s.flagIf b e).inReset = s.inReset := by
  cases b <;> rfl

@[simp] theorem flagIf_inputs (b : Bool) (e : ErrBit) (s : State) :
    (s.flagIf b e).inputs = s.inputs := by
  cases b <;> rfl

@[simp] theorem flagIf_busData (b : Bool) (e : ErrBit) (s : State) :
    (s.flagIf b e).busData = s.busData := by
  cases b <;> rfl

@[simp] theorem flagIf_cmtarm (b : Bool) (e : ErrBit) (s : State) :
    (s.flagIf b e).cmtarm = s.cmtarm := by
  cases b <;> rfl

end Sys2Proof.Machine
end

