-- ==== Sys2Proof/Laws/Frames.lean ====
section
/-! SUPPORT. Each shared operation says once everything it can do: which fields it writes, and that
it clears no sticky bit. -/

namespace Sys2Proof.Machine

/-- Sticky bits only grow, and a new error bit comes with `IRQST.ERR` (00_scope.md R7). -/
def FlagsGrow (s t : State) : Prop :=
  ∃ (e : BitVec 8) (q : BitVec 5), t.err = s.err ||| e ∧ t.irqst = s.irqst ||| q ∧
    (e = 0 ∨ q.getLsbD 4 = true)

theorem FlagsGrow.refl (s : State) : FlagsGrow s s := ⟨0, 0, by simp, by simp, .inl rfl⟩

/-- Fields other than `ERR` and `IRQST` do not matter. -/
theorem FlagsGrow.of_eq {s t : State} (h1 : t.err = s.err) (h2 : t.irqst = s.irqst) :
    FlagsGrow s t := ⟨0, 0, by simp [h1], by simp [h2], .inl rfl⟩

theorem FlagsGrow.trans {s t u : State} (h : FlagsGrow s t) (h' : FlagsGrow t u) :
    FlagsGrow s u := by
  obtain ⟨e, q, h1, h2, h3⟩ := h
  obtain ⟨e', q', h1', h2', h3'⟩ := h'
  refine ⟨e ||| e', q ||| q', by rw [h1', h1, BitVec.or_assoc], by rw [h2', h2, BitVec.or_assoc], ?_⟩
  rcases h3 with rfl | h3
  · rcases h3' with rfl | h3'
    · exact .inl (by simp)
    · exact .inr (by simp [h3'])
  · exact .inr (by simp [h3])

theorem FlagsGrow.flag (e : ErrBit) (s : State) : FlagsGrow s (s.flag e) :=
  ⟨_, _, rfl, rfl, .inr (by decide)⟩

theorem FlagsGrow.flagIf (b : Bool) (e : ErrBit) (s : State) : FlagsGrow s (s.flagIf b e) := by
  cases b
  · exact .refl s
  · exact .flag e s

theorem FlagsGrow.setIrq (b : IrqBit) (s : State) : FlagsGrow s (s.setIrq b) :=
  ⟨0, _, by simp, rfl, .inl rfl⟩

/-- What growth says of one bit. -/
theorem FlagsGrow.bits {s t : State} (h : FlagsGrow s t) :
    (∀ k, s.err.getLsbD k = true → t.err.getLsbD k = true) ∧
    (∀ k, s.irqst.getLsbD k = true → t.irqst.getLsbD k = true) ∧
    (t.err ≠ s.err → t.irqst.getLsbD 4 = true) := by
  obtain ⟨e, q, h1, h2, h3⟩ := h
  refine ⟨fun k hk => by simp [h1, hk], fun k hk => by simp [h2, hk], fun hne => ?_⟩
  rcases h3 with rfl | h3
  · simp [h1] at hne
  · simp [h2, h3]

/-! ## Window close -/

/-- `windowClose` writes the current filter and flags. -/
theorem windowClose_frame (s : State) :
    windowClose s = { s with
      cur := windowCloseRegs s.wave.ampeff s.cur
      err := (windowClose s).err
      irqst := (windowClose s).irqst } := by
  simp [windowClose, flagIf_eq]

theorem windowClose_grows (s : State) : FlagsGrow s (windowClose s) :=
  FlagsGrow.trans (t := { s with cur := windowCloseRegs s.wave.ampeff s.cur }) (.of_eq rfl rfl)
    (FlagsGrow.flagIf _ _ _)

/-! ## Phase mask -/

/-- `setMask` writes the mask, the current filter and flags. -/
theorem setMask_frame (m : Mask) (s : State) :
    setMask m s = { s with
      cmt := { s.cmt with phmask := m }
      cur := (setMask m s).cur
      err := (setMask m s).err
      irqst := (setMask m s).irqst } := by
  unfold setMask
  split
  · simp_all
  · dsimp only
    split
    · rw [windowClose_frame]; rfl
    · rfl

theorem setMask_grows (m : Mask) (s : State) : FlagsGrow s (setMask m s) := by
  unfold setMask
  split
  · exact .refl s
  · have h : FlagsGrow s (State.setIrq .cmt { s with cmt := { s.cmt with phmask := m } }) :=
      FlagsGrow.setIrq .cmt _
    dsimp only
    split
    · exact h.trans (windowClose_grows _)
    · exact h

/-- `lookupFlags` writes flags only. -/
theorem lookupFlags_frame (m : Mask) (s : State) :
    lookupFlags m s = { s with err := (lookupFlags m s).err, irqst := (lookupFlags m s).irqst } := by
  unfold lookupFlags; split
  · rfl
  · split <;> rfl

theorem lookupFlags_grows (m : Mask) (s : State) : FlagsGrow s (lookupFlags m s) := by
  unfold lookupFlags; split
  · exact .flag _ _
  · split
    · exact .flag _ _
    · exact .refl s

/-- A mask that a table lookup applies is legal. -/
theorem appliedMask_legal : ∀ m : Mask, maskIllegal (appliedMask m) = false := by decide +kernel

/-- The mask a Hall lookup applies is legal, in either direction. -/
theorem hallMask_legal : ∀ (dir : Bool) (m : Mask), maskIllegal (hallMask dir m) = false := by
  decide +kernel

/-- `lookupHall` writes the mask, the current filter and flags. -/
theorem lookupHall_frame (s : State) :
    lookupHall s = { s with
      cmt := { s.cmt with
        phmask := hallMask s.ctrl.dir (hallEntry s.ctrl.hall60 s.cmt) }
      cur := (lookupHall s).cur
      err := (lookupHall s).err
      irqst := (lookupHall s).irqst } := by
  unfold lookupHall
  rw [setMask_frame, lookupFlags_frame]

theorem lookupHall_grows (s : State) : FlagsGrow s (lookupHall s) :=
  (lookupFlags_grows _ _).trans (setMask_grows _ _)

/-- `applyStep` writes the floating phase, the mask, the current filter and flags. -/
theorem applyStep_frame (s : State) :
    applyStep s = { s with
      cmt := { s.cmt with
        floatph := entryFlt (stabEntry s.ctrl.dir s.cmt)
        phmask := appliedMask (entryMask (stabEntry s.ctrl.dir s.cmt)) }
      cur := (applyStep s).cur
      err := (applyStep s).err
      irqst := (applyStep s).irqst } := by
  unfold applyStep
  rw [setMask_frame, lookupFlags_frame]

theorem applyStep_grows (s : State) : FlagsGrow s (applyStep s) :=
  (FlagsGrow.trans
    (t := { s with cmt := { s.cmt with floatph := entryFlt (stabEntry s.ctrl.dir s.cmt) } })
    (.of_eq rfl rfl) (lookupFlags_grows _ _)).trans (setMask_grows _ _)

/-- `enterStep` writes commutation state, the current filter, the detector's arming and flags. -/
theorem enterStep_frame (k : Fin 6) (s : State) :
    enterStep k s = { s with
      cmt := { s.cmt with
        cstep := k, floatph := (enterStep k s).cmt.floatph, phmask := (enterStep k s).cmt.phmask }
      cur := (enterStep k s).cur
      zc := { s.zc with
        skipcnt := (enterStep k s).zc.skipcnt, zcdone := (enterStep k s).zc.zcdone }
      err := (enterStep k s).err
      irqst := (enterStep k s).irqst } := by
  unfold enterStep
  dsimp only
  split
  · unfold zcArm; rw [applyStep_frame]
  · rfl

theorem enterStep_grows (k : Fin 6) (s : State) : FlagsGrow s (enterStep k s) := by
  unfold enterStep
  dsimp only
  split
  · exact (FlagsGrow.trans (t := { s with cmt := { s.cmt with cstep := k } }) (.of_eq rfl rfl)
      (applyStep_grows _)).trans (FlagsGrow.of_eq (s := applyStep _) (t := zcArm _) rfl rfl)
  · exact .of_eq rfl rfl

/-! ## Speed estimator -/

/-- `speedEdge` writes the estimator and flags. -/
theorem speedEdge_frame (ts : Word) (s : State) :
    speedEdge ts s = { s with
      spd := speedEdgeRegs ts s.spd
      err := s.err ||| if speedEdgeDiv0 ts s.spd then ErrBit.div0.mask else 0
      irqst := s.irqst ||| if speedEdgeDiv0 ts s.spd then IrqBit.err.mask else 0 } := by
  simp only [speedEdge, flagIf_eq]

theorem speedEdge_grows (ts : Word) (s : State) : FlagsGrow s (speedEdge ts s) :=
  FlagsGrow.trans (t := { s with spd := speedEdgeRegs ts s.spd }) (.of_eq rfl rfl)
    (FlagsGrow.flagIf _ _ _)

/-- `speedEdgeRegs` keeps the registers the host writes. -/
theorem speedEdgeRegs_frame (ts : Word) (p : SpeedRegs) :
    speedEdgeRegs ts p = { p with
      edgeage := 0, lastedge := ts, skip := false, seed := (speedEdgeRegs ts p).seed
      spdsamp := (speedEdgeRegs ts p).spdsamp, mspeed := (speedEdgeRegs ts p).mspeed } := by
  unfold speedEdgeRegs
  split
  · rfl
  · split
    · simp_all
    · dsimp only
      split
      · simp_all
      · split <;> simp_all

/-! ## Zero-crossing detector -/

/-- `zcDetect` writes the detector, the strobe, the estimator and flags. -/
theorem zcDetect_frame (ts : Word) (s : State) :
    zcDetect ts s = { s with
      zc := zcDetectRegs ts s.zc
      cmtarm := some (zcDetectRegs ts s.zc).cmtdly
      spd := (zcDetect ts s).spd
      err := (zcDetect ts s).err
      irqst := (zcDetect ts s).irqst } := by
  unfold zcDetect
  dsimp only
  split
  · rw [speedEdge_frame]; rfl
  · rfl

theorem zcDetect_grows (ts : Word) (s : State) : FlagsGrow s (zcDetect ts s) := by
  have h : FlagsGrow s (State.setIrq .zc { s with
      zc := zcDetectRegs ts s.zc, cmtarm := some (zcDetectRegs ts s.zc).cmtdly }) :=
    FlagsGrow.setIrq .zc _
  unfold zcDetect
  dsimp only
  split
  · exact h.trans (speedEdge_grows _ _)
  · exact h

/-- All that `bemfSample` can do. -/
theorem bemfSample_cases (vbemf : NonNeg) (ts : Word) (s : State) :
    bemfSample vbemf ts s = s ∨
    (s.zc.zcdone = false ∧ s.zc.skipcnt ≠ 0 ∧
      bemfSample vbemf ts s = { s with zc := { s.zc with skipcnt := s.zc.skipcnt - 1 } }) ∨
    (s.zc.zcdone = false ∧ s.zc.skipcnt = 0 ∧ bemfSample vbemf ts s = zcDetect ts s) := by
  unfold bemfSample
  split
  · exact .inl rfl
  · rename_i hd
    split
    · exact .inr (.inl ⟨by simpa using hd, ‹_›, rfl⟩)
    · rename_i hk
      split
      · exact .inr (.inr ⟨by simpa using hd, by simpa using hk, rfl⟩)
      · exact .inl rfl

theorem bemfSample_grows (vbemf : NonNeg) (ts : Word) (s : State) :
    FlagsGrow s (bemfSample vbemf ts s) := by
  rcases bemfSample_cases vbemf ts s with h | ⟨_, _, h⟩ | ⟨_, _, h⟩ <;> rw [h]
  · exact .refl s
  · exact .of_eq rfl rfl
  · exact zcDetect_grows ts s

/-! ## Waveform update -/

/-- `waveUpdate` writes the waveform registers, the current filter and flags. -/
theorem waveUpdate_frame (n : Nat) (s : State) :
    waveUpdate n s = { s with
      wave := waveRegsUpdate n s
      cur := (waveUpdate n s).cur
      err := (waveUpdate n s).err
      irqst := (waveUpdate n s).irqst } := by
  unfold waveUpdate
  dsimp only
  split
  · rw [windowClose_frame]; rfl
  · rfl

theorem waveUpdate_grows (n : Nat) (s : State) : FlagsGrow s (waveUpdate n s) := by
  unfold waveUpdate
  dsimp only
  split
  · exact (FlagsGrow.trans (t := { s with wave := waveRegsUpdate n s }) (.of_eq rfl rfl)
      (windowClose_grows _)).trans (FlagsGrow.setIrq _ _)
  · exact FlagsGrow.trans (t := { s with wave := waveRegsUpdate n s }) (.of_eq rfl rfl)
      (FlagsGrow.setIrq _ _)

/-! ## Faults -/

theorem takeFault_grows (held : BitVec 8) (s : State) : FlagsGrow s (takeFault held s) :=
  ⟨0, _, by simp, rfl, .inl rfl⟩

/-- Taking a fault trips the block: with any bit latched, outputs off and not running. -/
theorem takeFault_tripped (held : BitVec 8) (s : State) : (takeFault held s).Tripped :=
  fun _ => ⟨rfl, rfl⟩

end Sys2Proof.Machine
end

