-- ==== Sys2Proof/Laws/Arbiter.lean ====
section
/-! SUPPORT. What arrivals, the arbiter and a step can do, each said once. -/

namespace Sys2Proof.Machine

/-- The state outside the latches, the host port, the sticky bits and the read data. -/
def SameBlock (s t : State) : Prop :=
  t = { s with
    err := t.err, irqst := t.irqst, pend := t.pend, hostq := t.hostq, busData := t.busData
    inReset := t.inReset }

theorem SameBlock.refl (s : State) : SameBlock s s := rfl

theorem SameBlock.trans {s t u : State} (h : SameBlock s t) (h' : SameBlock t u) :
    SameBlock s u := by
  unfold SameBlock at *
  rw [h']
  rw [h]

/-- The pending count after a period end: one more, or the record's own count if that is more, within
the counter's range. -/
theorem arrivePwm_pwm_toNat (c : Word) (s : State) :
    (arrivePwm c s).pend.pwm.toNat = min (max (s.pend.pwm.toNat + 1) c.toNat) 0xFFFFFFFF := by
  have key : ∀ (b : Bool) (p : Pending), (State.flagIf b .evovr { s with pend := p }).pend = p := by
    intro b p; cases b <;> rfl
  rw [arrivePwm, key, BitVec.toNat_ofNat]
  exact Nat.mod_eq_of_lt (by omega)

/-- EVOVR is flagged exactly when the counter is already full, as R331 says, whatever the record's
count. -/
theorem arrivePwm_flags_full (c : Word) (s : State) :
    arrivePwm c s = State.flagIf (decide (s.pend.pwm.toNat = 0xFFFFFFFF)) .evovr
      { s with pend.pwm := (arrivePwm c s).pend.pwm } := by
  have hc := c.isLt
  have hp := s.pend.pwm.isLt
  have hb : decide (0xFFFFFFFF < max (s.pend.pwm.toNat + 1) c.toNat) =
      decide (s.pend.pwm.toNat = 0xFFFFFFFF) := decide_eq_decide.2 (by omega)
  have hw : (arrivePwm c s).pend.pwm =
      BitVec.ofNat 32 (min (max (s.pend.pwm.toNat + 1) c.toNat) 0xFFFFFFFF) := by
    rw [← arrivePwm_pwm_toNat, BitVec.ofNat_toNat, BitVec.setWidth_eq]
  rw [hw, ← hb, arrivePwm]

/-- An arriving event touches its latch and the sticky bits only. -/
theorem latchEvent_frame {i : Instr} {s t : State} (h : latchEvent i s = some t) :
    SameBlock s t ∧ FlagsGrow s t ∧ t.hostq = s.hostq ∧ t.inReset = s.inReset ∧
      t.busData = s.busData := by
  have key : ∀ (b : Bool) (p : Pending),
      SameBlock s (State.flagIf b .evovr { s with pend := p }) ∧
      FlagsGrow s (State.flagIf b .evovr { s with pend := p }) ∧
      (State.flagIf b .evovr { s with pend := p }).hostq = s.hostq ∧
      (State.flagIf b .evovr { s with pend := p }).inReset = s.inReset ∧
      (State.flagIf b .evovr { s with pend := p }).busData = s.busData := by
    intro b p
    refine ⟨?_, FlagsGrow.trans (t := { s with pend := p }) (.of_eq rfl rfl) (.flagIf _ _ _), ?_, ?_, ?_⟩
    · cases b <;> rfl
    all_goals simp
  cases i <;> simp only [latchEvent, reduceCtorEq] at h
  case evPwm c =>
    split at h
    · cases h
    · cases h; exact key _ _
  all_goals cases h; exact key _ _

/-- All that one arrival can do. -/
theorem arrive_cases {x : Input} {s t : State} (h : arrive x s = .ok t) :
    (SameBlock s t ∧ FlagsGrow s t) ∨ t = assertReset s := by
  cases x <;> simp only [arrive] at h
  case event record =>
    left
    split at h
    · cases h; exact ⟨.refl s, .refl s⟩
    · unfold arriveEvent at h
      split at h
      · rename_i u hu
        cases h
        obtain ⟨i, -, hi⟩ := Option.bind_eq_some_iff.1 hu
        exact ⟨(latchEvent_frame hi).1, (latchEvent_frame hi).2.1⟩
      · cases h
  case bus words size =>
    left
    split at h
    · cases h
      unfold busInReset
      split
      · split
        · exact ⟨.refl s, .refl s⟩
        · exact ⟨rfl, .of_eq rfl rfl⟩
      · exact ⟨.refl s, .refl s⟩
    · unfold arriveBus at h
      split at h
      · cases h; exact ⟨rfl, .of_eq rfl rfl⟩
      · cases h
  case resetAssert => right; cases h; rfl
  case resetRelease => left; cases h; exact ⟨rfl, .of_eq rfl rfl⟩

/-- A property of the block that neither the latches nor the sticky bits decide, and that the reset
state has, holds after any batch of arrivals. -/
theorem arriveAll_induct {P : State → Prop} (hreset : ∀ s, P (assertReset s))
    (hsame : ∀ s t, SameBlock s t → P s → P t) :
    ∀ {xs : List Input} {s t : State}, arriveAll xs s = .ok t → P s → P t := by
  intro xs
  induction xs with
  | nil => intro s t h hp; cases h; exact hp
  | cons x xs ih =>
    intro s t h hp
    unfold arriveAll at h
    split at h
    · rename_i u hu
      rcases arrive_cases hu with ⟨hs, -⟩ | rfl
      · exact ih h (hsame _ _ hs hp)
      · exact ih h (hreset _)
    · cases h

/-- What the arbiter takes out of a latch or the queue is no other part of the state. -/
theorem select_frame {s t : State} {i : Instr} (h : select s = some (i, t)) :
    t = { s with pend := t.pend, hostq := t.hostq } := by
  unfold select at h
  split at h
  · cases h; rfl
  · split at h
    · cases h; rfl
    · cases h

/-- All that a step can do: a batch arrives, then the block waits or performs the operation the
arbiter selects. -/
theorem step_cases {s t : State} (h : step s = .next t) :
    ∃ u, arriveAll (s.inputs.headD []) (beginStep s) = .ok u ∧
      (t = u ∧ (u.inReset = true ∨ select u = none) ∨
        u.inReset = false ∧ ∃ i v, select u = some (i, v) ∧ exec i v = .next t) := by
  unfold step at h
  split at h
  · rename_i u hu
    refine ⟨u, hu, ?_⟩
    unfold perform at h
    split at h
    · cases h; exact .inl ⟨rfl, .inl ‹_›⟩
    · rename_i hr
      split at h
      · exact .inr ⟨by simpa using hr, _, _, ‹_›, h⟩
      · cases h; exact .inl ⟨rfl, .inr ‹_›⟩
  · cases h

end Sys2Proof.Machine
end

