-- ==== Sys2Proof/Laws/Encoding.lean ====
section
/-! SUPPORT. The bits of each word format, and what each of its fields reads as. -/

namespace Sys2Proof

theorem getLsbD_field (lo n : Nat) (w : Word) (k : Nat) :
    (field lo n w).getLsbD k = (decide (k < n) && w.getLsbD (lo + k)) := by
  simp [field, BitVec.getLsbD_extractLsb']

/-! ## Command words (30_encoding.md R100) -/

theorem getLsbD_commandWord (op : BitVec 8) (idx : BitVec 4) (k : Nat) :
    (commandWord op idx).getLsbD k =
      if k < 8 then op.getLsbD k else idx.getLsbD (k - 8) := by
  refine (BitVec.getLsbD_append (x := (0#20 ++ idx)) (y := op) (i := k)).trans ?_
  rw [BitVec.getLsbD_append]
  by_cases h : k < 8 <;> simp [h]
  intro h1
  by_contra h2
  rw [BitVec.getLsbD_of_ge _ _ (by omega)] at h1
  exact absurd h1 (by decide)

@[simp] theorem field_commandWord_op (op : BitVec 8) (idx : BitVec 4) :
    field 0 8 (commandWord op idx) = op := by
  refine BitVec.eq_of_getLsbD_eq fun k hk => ?_
  rw [getLsbD_field, getLsbD_commandWord]
  simp [hk]

@[simp] theorem field_commandWord_idx (op : BitVec 8) (idx : BitVec 4) :
    field 8 4 (commandWord op idx) = idx := by
  refine BitVec.eq_of_getLsbD_eq fun k hk => ?_
  rw [getLsbD_field, getLsbD_commandWord]
  simp [hk]

@[simp] theorem field_commandWord_rsv (op : BitVec 8) (idx : BitVec 4) :
    field 12 20 (commandWord op idx) = 0 := by
  refine BitVec.eq_of_getLsbD_eq fun k hk => ?_
  rw [getLsbD_field, getLsbD_commandWord]
  simp [show ¬ 12 + k < 8 by omega, BitVec.getLsbD_of_ge idx (12 + k - 8) (by omega)]

/-- A command word is its fields. -/
theorem commandWord_of_fields {w : Word} (h : field 12 20 w = 0) :
    commandWord (field 0 8 w) (field 8 4 w) = w := by
  refine BitVec.eq_of_getLsbD_eq fun k hk => ?_
  have hz := congrArg (fun x => x.getLsbD (k - 12)) h
  simp only [getLsbD_field] at hz
  simp only [getLsbD_commandWord, getLsbD_field]
  by_cases h8 : k < 8
  · simp [h8]
  · by_cases h12 : k < 12
    · simp [h8, show k - 8 < 4 by omega, show 8 + (k - 8) = k by omega]
    · simp [show k - 12 < 20 by omega, show 12 + (k - 12) = k by omega] at hz
      simp [h8, show ¬ k - 8 < 4 by omega, hz]

/-! ## Event headers (30_encoding.md R104) -/

theorem getLsbD_eventHeader (hi : BitVec 16) (code : BitVec 8) (k : Nat) :
    (eventHeader hi code).getLsbD k =
      if k < 16 then code.getLsbD k else hi.getLsbD (k - 16) := by
  refine (BitVec.getLsbD_append (x := (hi ++ 0#8)) (y := code) (i := k)).trans ?_
  rw [BitVec.getLsbD_append]
  by_cases h : k < 8
  · simp [h, show k < 16 by omega]
  · by_cases h16 : k < 16
    · simp [h, h16, show k - 8 < 8 by omega, BitVec.getLsbD_of_ge code k (by omega)]
    · simp [h, h16, show ¬ k - 8 < 8 by omega, show k - 8 - 8 = k - 16 by omega]

theorem field_eventHeader_low (hi : BitVec 16) (code : BitVec 8) :
    field 0 16 (eventHeader hi code) = code.zeroExtend 16 := by
  refine BitVec.eq_of_getLsbD_eq fun k hk => ?_
  rw [getLsbD_field, getLsbD_eventHeader]
  simp [hk]

@[simp] theorem toNat_field_eventHeader_low (hi : BitVec 16) (code : BitVec 8) :
    (field 0 16 (eventHeader hi code)).toNat = code.toNat := by
  rw [field_eventHeader_low]; simp; omega

@[simp] theorem field_eventHeader_hi (hi : BitVec 16) (code : BitVec 8) :
    field 16 16 (eventHeader hi code) = hi := by
  refine BitVec.eq_of_getLsbD_eq fun k hk => ?_
  rw [getLsbD_field, getLsbD_eventHeader]
  simp [hk]

/-! ## Access descriptors (30_encoding.md R107) -/

theorem getLsbD_accessWord (we : BitVec 1) (o : BitVec 10) (k : Nat) :
    (accessWord we o).getLsbD k = if k < 31 then o.getLsbD k else we.getLsbD (k - 31) := by
  refine (BitVec.getLsbD_append (x := (we ++ 0#21)) (y := o) (i := k)).trans ?_
  rw [BitVec.getLsbD_append]
  by_cases h : k < 10
  · simp [h, show k < 31 by omega]
  · by_cases h31 : k < 31
    · simp [h, h31, show k - 10 < 21 by omega, BitVec.getLsbD_of_ge o k (by omega)]
    · simp only [h, h31, show ¬ k - 10 < 21 by omega, show k - 10 - 21 = k - 31 by omega, if_false]

@[simp] theorem field_accessWord_offset (we : BitVec 1) (o : BitVec 10) :
    field 0 10 (accessWord we o) = o := by
  refine BitVec.eq_of_getLsbD_eq fun k hk => ?_
  rw [getLsbD_field, getLsbD_accessWord]
  simp [hk, show k < 31 by omega]

@[simp] theorem field_accessWord_zero (we : BitVec 1) (o : BitVec 10) :
    field 10 21 (accessWord we o) = 0 := by
  refine BitVec.eq_of_getLsbD_eq fun k hk => ?_
  rw [getLsbD_field, getLsbD_accessWord]
  simp [hk, show 10 + k < 31 by omega]

@[simp] theorem field_accessWord_we (we : BitVec 1) (o : BitVec 10) :
    field 31 1 (accessWord we o) = we := by
  refine BitVec.eq_of_getLsbD_eq fun k hk => ?_
  rw [getLsbD_field, getLsbD_accessWord]
  simp [hk]

end Sys2Proof
end

