-- ==== Sys2Proof/Laws/PerInstr.lean ====
section
/-! SUPPORT. The family `TableRow`: the first word of every operation lies in its own row of
spec/opcode_table.json, and the operation has as many words as 30_encoding.md gives it. -/

namespace Sys2Proof

/-- A row of the opcode table: the fixed bits of the first word, their value, and the word count. -/
structure Row where
  mask : Word
  pattern : Word
  words : Nat
  deriving DecidableEq, Repr

/-- The row of an operation (spec/opcode_table.json; word counts from 30_encoding.md R104, R107). -/
def rowOf : Instr → Row
  | .nop => ⟨0xFFFFFFFF#32, 0x00000000#32, 1⟩
  | .piStep _ => ⟨0xFFFFF0FF#32, 0x00000001#32, 1⟩
  | .piReset _ => ⟨0xFFFFF0FF#32, 0x00000002#32, 1⟩
  | .piSeed _ => ⟨0xFFFFF0FF#32, 0x00000003#32, 1⟩
  | .angReset => ⟨0xFFFFFFFF#32, 0x00000010#32, 1⟩
  | .angSetfreq => ⟨0xFFFFFFFF#32, 0x00000011#32, 1⟩
  | .waveUpdate => ⟨0xFFFFFFFF#32, 0x00000012#32, 1⟩
  | .cmtHall => ⟨0xFFFFFFFF#32, 0x00000020#32, 1⟩
  | .cmtStepset _ => ⟨0xFFFFF0FF#32, 0x00000021#32, 1⟩
  | .cmtStepadv => ⟨0xFFFFFFFF#32, 0x00000022#32, 1⟩
  | .zcReset => ⟨0xFFFFFFFF#32, 0x00000023#32, 1⟩
  | .spdReset => ⟨0xFFFFFFFF#32, 0x00000030#32, 1⟩
  | .curReset => ⟨0xFFFFFFFF#32, 0x00000031#32, 1⟩
  | .faultClear => ⟨0xFFFFFFFF#32, 0x00000040#32, 1⟩
  | .estop => ⟨0xFFFFFFFF#32, 0x00000041#32, 1⟩
  | .outOn => ⟨0xFFFFFFFF#32, 0x00000042#32, 1⟩
  | .outOff => ⟨0xFFFFFFFF#32, 0x00000043#32, 1⟩
  | .runEnter => ⟨0xFFFFFFFF#32, 0x00000044#32, 1⟩
  | .runExit => ⟨0xFFFFFFFF#32, 0x00000045#32, 1⟩
  | .evPwm _ => ⟨0xFFFFFFFF#32, 0x000000E0#32, 2⟩
  | .evAdc _ _ _ _ _ => ⟨0x0000FFFF#32, 0x000000E1#32, 5⟩
  | .evHall _ _ => ⟨0xFFF8FFFF#32, 0x000000E2#32, 2⟩
  | .evCmt => ⟨0xFFFFFFFF#32, 0x000000E3#32, 1⟩
  | .evTick => ⟨0xFFFFFFFF#32, 0x000000E4#32, 1⟩
  | .evWdog => ⟨0xFFFFFFFF#32, 0x000000E5#32, 1⟩
  | .evAdcerr => ⟨0xFFFFFFFF#32, 0x000000E6#32, 1⟩
  | .regRead _ _ => ⟨0xFFFFFC00#32, 0x00000000#32, 1⟩
  | .regWrite _ _ _ => ⟨0xFFFFFC00#32, 0x80000000#32, 2⟩

/-- The first word matches the operation's row and the number of words is the row's. -/
def Laws.TableRow.Statement (i : Instr) : Prop :=
  (encode i).headD 0 &&& (rowOf i).mask = (rowOf i).pattern ∧ (encode i).length = (rowOf i).words

theorem Laws.TableRow.commandRow : ∀ n : BitVec 4,
    (commandWord 0x01 n &&& 0xFFFFF0FF#32 = 0x00000001#32 ∧
      commandWord 0x02 n &&& 0xFFFFF0FF#32 = 0x00000002#32) ∧
    commandWord 0x03 n &&& 0xFFFFF0FF#32 = 0x00000003#32 ∧
      commandWord 0x21 n &&& 0xFFFFF0FF#32 = 0x00000021#32 := by decide +kernel

/-- Only bits [9:0] of a descriptor are free (30_encoding.md R107). -/
theorem Laws.TableRow.accessRow : ∀ o : BitVec 10,
    accessWord 0 o &&& 0xFFFFFC00#32 = 0x00000000#32 ∧
    accessWord 1 o &&& 0xFFFFFC00#32 = 0x80000000#32 := by decide +kernel

/-- Only bits [31:16] of an EV_ADC header are free (30_encoding.md R104). -/
theorem Laws.TableRow.adcRow (ic : BitVec 16) :
    eventHeader ic 0xE1 &&& 0x0000FFFF#32 = 0x000000E1#32 := by
  refine BitVec.eq_of_getLsbD_eq fun k hk => ?_
  rw [BitVec.getLsbD_and, getLsbD_eventHeader]
  by_cases h : k < 16
  · rw [if_pos h]
    have : ∀ j : Fin 16, ((0xE1#8).getLsbD j.val && (0x0000FFFF#32).getLsbD j.val) =
        (0x000000E1#32).getLsbD j.val := by decide
    exact this ⟨k, h⟩
  · have : ∀ j : Fin 32, 16 ≤ j.val →
        (0x0000FFFF#32).getLsbD j.val = false ∧ (0x000000E1#32).getLsbD j.val = false := by decide
    obtain ⟨h1, h2⟩ := this ⟨k, hk⟩ (by simpa using h)
    rw [h1, h2, Bool.and_false]

/-- Only bits [18:16] of an EV_HALL header are free (30_encoding.md R104). -/
theorem Laws.TableRow.hallRow : ∀ h : BitVec 3,
    eventHeader (0#13 ++ h : BitVec (13 + 3)) 0xE2 &&& 0xFFF8FFFF#32 = 0x000000E2#32 := by
  decide +kernel

theorem Laws.TableRow.nop : Laws.TableRow.Statement .nop := by
  unfold Laws.TableRow.Statement; decide

theorem Laws.TableRow.piStep (n : BitVec 4) : Laws.TableRow.Statement (.piStep n) :=
  ⟨(Laws.TableRow.commandRow n).1.1, rfl⟩

theorem Laws.TableRow.piReset (n : BitVec 4) : Laws.TableRow.Statement (.piReset n) :=
  ⟨(Laws.TableRow.commandRow n).1.2, rfl⟩

theorem Laws.TableRow.piSeed (n : BitVec 4) : Laws.TableRow.Statement (.piSeed n) :=
  ⟨(Laws.TableRow.commandRow n).2.1, rfl⟩

theorem Laws.TableRow.angReset : Laws.TableRow.Statement .angReset := by
  unfold Laws.TableRow.Statement; decide

theorem Laws.TableRow.angSetfreq : Laws.TableRow.Statement .angSetfreq := by
  unfold Laws.TableRow.Statement; decide

theorem Laws.TableRow.waveUpdate : Laws.TableRow.Statement .waveUpdate := by
  unfold Laws.TableRow.Statement; decide

theorem Laws.TableRow.cmtHall : Laws.TableRow.Statement .cmtHall := by
  unfold Laws.TableRow.Statement; decide

theorem Laws.TableRow.cmtStepset (k : BitVec 4) : Laws.TableRow.Statement (.cmtStepset k) :=
  ⟨(Laws.TableRow.commandRow k).2.2, rfl⟩

theorem Laws.TableRow.cmtStepadv : Laws.TableRow.Statement .cmtStepadv := by
  unfold Laws.TableRow.Statement; decide

theorem Laws.TableRow.zcReset : Laws.TableRow.Statement .zcReset := by
  unfold Laws.TableRow.Statement; decide

theorem Laws.TableRow.spdReset : Laws.TableRow.Statement .spdReset := by
  unfold Laws.TableRow.Statement; decide

theorem Laws.TableRow.curReset : Laws.TableRow.Statement .curReset := by
  unfold Laws.TableRow.Statement; decide

theorem Laws.TableRow.faultClear : Laws.TableRow.Statement .faultClear := by
  unfold Laws.TableRow.Statement; decide

theorem Laws.TableRow.estop : Laws.TableRow.Statement .estop := by
  unfold Laws.TableRow.Statement; decide

theorem Laws.TableRow.outOn : Laws.TableRow.Statement .outOn := by
  unfold Laws.TableRow.Statement; decide

theorem Laws.TableRow.outOff : Laws.TableRow.Statement .outOff := by
  unfold Laws.TableRow.Statement; decide

theorem Laws.TableRow.runEnter : Laws.TableRow.Statement .runEnter := by
  unfold Laws.TableRow.Statement; decide

theorem Laws.TableRow.runExit : Laws.TableRow.Statement .runExit := by
  unfold Laws.TableRow.Statement; decide

theorem Laws.TableRow.evPwm (c : Word) : Laws.TableRow.Statement (.evPwm c) :=
  ⟨(by decide : eventHeader 0 0xE0 &&& 0xFFFFFFFF#32 = 0x000000E0#32), rfl⟩

theorem Laws.TableRow.evAdc (ic : BitVec 16) (vbemf vb tp ts : Word) : Laws.TableRow.Statement (.evAdc ic vbemf vb tp ts) :=
  ⟨Laws.TableRow.adcRow ic, rfl⟩

theorem Laws.TableRow.evHall (h : BitVec 3) (ts : Word) : Laws.TableRow.Statement (.evHall h ts) :=
  ⟨Laws.TableRow.hallRow h, rfl⟩

theorem Laws.TableRow.evCmt : Laws.TableRow.Statement .evCmt := by
  unfold Laws.TableRow.Statement; decide

theorem Laws.TableRow.evTick : Laws.TableRow.Statement .evTick := by
  unfold Laws.TableRow.Statement; decide

theorem Laws.TableRow.evWdog : Laws.TableRow.Statement .evWdog := by
  unfold Laws.TableRow.Statement; decide

theorem Laws.TableRow.evAdcerr : Laws.TableRow.Statement .evAdcerr := by
  unfold Laws.TableRow.Statement; decide

theorem Laws.TableRow.regRead (o : BitVec 10) (size : Nat) : Laws.TableRow.Statement (.regRead o size) :=
  ⟨(Laws.TableRow.accessRow o).1, rfl⟩

theorem Laws.TableRow.regWrite (o : BitVec 10) (size : Nat) (v : Word) : Laws.TableRow.Statement (.regWrite o size v) :=
  ⟨(Laws.TableRow.accessRow o).2, rfl⟩

end Sys2Proof
end

