-- ==== Sys2Proof/Laws/Window.lean ====
section
/-! SUPPORT. The register window: each register is the only one at its offset. -/

namespace Sys2Proof.Machine

/-- The list of registers is complete. -/
theorem mem_allRegs (r : Reg) : r ∈ allRegs := by
  cases r with
  | pi n q => revert n; cases q <;> decide +kernel
  | htab120 h => revert h; decide +kernel
  | htab60 h => revert h; decide +kernel
  | stab j => revert j; decide +kernel
  | _ => decide +kernel

/-- No two registers share an offset. -/
theorem allRegs_offsets_distinct : (allRegs.map regOffset).Pairwise (· ≠ ·) := by decide +kernel

/-- Every register is found at its own offset. -/
theorem regAt_regOffset (r : Reg) : regAt (regOffset r) = some r := by
  have h : ∀ r ∈ allRegs, regAt (regOffset r) = some r := by decide +kernel
  exact h r (mem_allRegs r)

theorem regOffset_of_regAt {o : Nat} {r : Reg} (h : regAt o = some r) : regOffset r = o := by
  have := List.find?_some h
  simpa using this

/-- Every register is inside the window and on a word boundary. -/
theorem regOffset_bound (r : Reg) : regOffset r < 0x400 ∧ regOffset r % 4 = 0 := by
  have h : ∀ r ∈ allRegs, regOffset r < 0x400 ∧ regOffset r % 4 = 0 := by decide +kernel
  exact h r (mem_allRegs r)

/-- An access of 32 bits at a register's offset reaches that register. -/
theorem accessedReg_regOffset (r : Reg) :
    accessedReg (BitVec.ofNat 10 (regOffset r)) 4 = some r := by
  have := (regOffset_bound r).1
  simp only [accessedReg, ↓reduceIte, BitVec.toNat_ofNat]
  rw [Nat.mod_eq_of_lt (by omega)]
  exact regAt_regOffset r

/-- The offsets where a 32-bit access reaches no register. -/
theorem regAt_eq_none_iff (o : Nat) : regAt o = none ↔ o ∉ allRegs.map regOffset := by
  simp [regAt, List.find?_eq_none]

end Sys2Proof.Machine
end

