-- ==== Sys2Proof/Tests/Slice0.lean ====
section
/-! SUPPORT. The model's own tests: ill-formed operations are refused by `wellFormed`, words written
out from 30_encoding.md decode to their operations, one-step vectors of 95_test_vectors.md, and for
every statement a concrete input that meets its hypotheses. -/

namespace Sys2Proof.Tests

open Sys2Proof Sys2Proof.Machine

/-! ## Helpers -/

/-- The state after one operation. -/
def after (i : Instr) (s : State) : Option State :=
  match exec i s with
  | .next t => some t
  | .fault _ => none
  | .refused _ => none

/-- The state after one step. -/
def afterStep (s : State) : Option State :=
  match step s with
  | .next t => some t
  | .fault _ => none
  | .refused _ => none

/-- The reset state in one mode, three-phase, forward. -/
def inMode (m : Mode) : State := { State.reset with ctrl.mode := m }

/-- Table T1 of 95_test_vectors.md section 1. -/
def tableT1 : Vector Mask 8 := #v[0x00, 0x09, 0x24, 0x21, 0x12, 0x18, 0x06, 0x00]

/-- Table T2 of 95_test_vectors.md section 1. -/
def tableT2 : Vector (BitVec 9) 12 :=
  #v[0x089, 0x161, 0x024, 0x186, 0x052, 0x118, 0x186, 0x052, 0x118, 0x089, 0x161, 0x024]

/-- TRAP_HALL with table T1. -/
def hallMode : State := { inMode .trapHall with cmt.htab120 := tableT1 }

/-- Start "B" of 95_test_vectors.md section 3.6 with the skip count `k`. -/
def bemfMode (k : BitVec 16) : State :=
  { inMode .trapBemf with
    cmt.stab := tableT2, cmt.phmask := 0x09, cmt.floatph := 2, zc.skiprst := 2, zc.skipcnt := k
    zc.latency := 100, zc.pwmper := 2500, zc.avgper := 20000, cur.vbus := 0x180000 }

/-- Start "S" of 95_test_vectors.md section 3.5. -/
def speedStart : State :=
  { State.reset with spd.sysclk := 50000000, spd.polepairs := 2, spd.maxspeed := 6000 }

/-- A PI instance 0 with gains, limit and integrator, the bound as R144 gives it. -/
def piStart (kp ki outmax integ : NonNeg) (errin : Word) : State :=
  { State.reset with
    pi0 := { kp := kp, ki := ki, outmax := outmax, errin := errin, integ := integ,
             imax := BitVec.ofNat 31 (imaxOf ki.toNat outmax.toNat), out := 0 } }

/-- Outputs on and running. -/
def running : State := { State.reset with mon.outen := true, mon.runst := true }

/-! ## Ill-formed operations (30_encoding.md R102, R105, R107) -/

theorem test_wf_refuses_piStep_2 : (Instr.piStep 2).wellFormed = false := by decide
theorem test_wf_refuses_piReset_2 : (Instr.piReset 2).wellFormed = false := by decide
theorem test_wf_refuses_piSeed_15 : (Instr.piSeed 15).wellFormed = false := by decide
theorem test_wf_refuses_cmtStepset_6 : (Instr.cmtStepset 6).wellFormed = false := by decide
theorem test_wf_refuses_evPwm_0 : (Instr.evPwm 0).wellFormed = false := by decide
theorem test_wf_refuses_halfword_read : (Instr.regRead 0 2).wellFormed = false := by decide
theorem test_wf_refuses_byte_write : (Instr.regWrite 0 1 0).wellFormed = false := by decide
theorem test_wf_accepts_bounds :
    ((Instr.piStep 1).wellFormed && (Instr.cmtStepset 5).wellFormed && (Instr.evPwm 1).wellFormed)
      = true := by decide

/-! ## Decoding, each word written out from the tables of 30_encoding.md -/

/-- Table R103, one word for each command. -/
theorem test_decode_commands :
    decode .command [0x00000000#32] = .ok (.nop, []) ∧
    decode .command [0x00000101#32] = .ok (.piStep 1, []) ∧
    decode .command [0x00000102#32] = .ok (.piReset 1, []) ∧
    decode .command [0x00000003#32] = .ok (.piSeed 0, []) ∧
    decode .command [0x00000010#32] = .ok (.angReset, []) ∧
    decode .command [0x00000011#32] = .ok (.angSetfreq, []) ∧
    decode .command [0x00000012#32] = .ok (.waveUpdate, []) ∧
    decode .command [0x00000020#32] = .ok (.cmtHall, []) ∧
    decode .command [0x00000321#32] = .ok (.cmtStepset 3, []) := by decide

/-- Table R103, the other commands. -/
theorem test_decode_more_commands :
    decode .command [0x00000022#32] = .ok (.cmtStepadv, []) ∧
    decode .command [0x00000023#32] = .ok (.zcReset, []) ∧
    decode .command [0x00000030#32] = .ok (.spdReset, []) ∧
    decode .command [0x00000031#32] = .ok (.curReset, []) ∧
    decode .command [0x00000040#32] = .ok (.faultClear, []) ∧
    decode .command [0x00000041#32] = .ok (.estop, []) ∧
    decode .command [0x00000042#32] = .ok (.outOn, []) ∧
    decode .command [0x00000043#32] = .ok (.outOff, []) ∧
    decode .command [0x00000044#32] = .ok (.runEnter, []) ∧
    decode .command [0x00000045#32] = .ok (.runExit, []) := by decide

/-- Table R104, one record for each event; header EV_ADC: IC in [31:16], EV_HALL: H in [18:16]. -/
theorem test_decode_events :
    decode .event [0x000000E0#32, 3#32] = .ok (.evPwm 3, []) ∧
    decode .event [0x123400E1#32, 1#32, 2#32, 3#32, 4#32] = .ok (.evAdc 0x1234 1 2 3 4, []) ∧
    decode .event [0x000600E2#32, 77#32] = .ok (.evHall 6 77, []) ∧
    decode .event [0x000000E3#32] = .ok (.evCmt, []) ∧
    decode .event [0x000000E4#32] = .ok (.evTick, []) ∧
    decode .event [0x000000E5#32] = .ok (.evWdog, []) ∧
    decode .event [0x000000E6#32] = .ok (.evAdcerr, []) := by decide

/-- The descriptors of programs P1 (95_test_vectors.md section 4). -/
theorem test_decode_accesses :
    decode .access [0x80000040#32, 0x00008000#32] = .ok (.regWrite 0x040 4 0x00008000, []) ∧
    decode .access [0x0000000C#32] = .ok (.regRead 0x00C 4, []) := by decide

/-- Words R106 and R107 call illegal. -/
theorem test_decode_refuses :
    decode .command [0x00001000#32] = .error .illegalCommand ∧
    decode .command [0x00000110#32] = .error .illegalCommand ∧
    decode .command [0x000000E4#32] = .error .illegalCommand ∧
    decode .event [0x000800E2#32, 0#32] = .error .malformedEvent ∧
    decode .event [0x000001E3#32] = .error .malformedEvent ∧
    decode .access [0x00000400#32] = .error .malformedAccess := by decide

/-- A table word with the bits of an operation, and of one whose operand words are zeros. -/
theorem test_decodeTableWord :
    decodeTableWord 32 0x00000521 = some (.cmtStepset 5) ∧
    decodeTableWord 32 0xBEEF00E1 = some (.evAdc 0xBEEF 0 0 0 0) ∧
    decodeTableWord 32 0x80000020 = some (.regWrite 0x020 4 0) := by decide

/-- The next step after reset runs the table word. -/
theorem test_withFetchWord_runs :
    afterStep (State.reset.withFetchWord 32 0x00000041) = after .estop State.reset ∧
    afterStep (State.reset.withFetchWord 32 0x000000E5) = after .evWdog State.reset := by
  decide

/-! ## Host accesses (95_test_vectors.md 3.1) -/

/-- V40.7 -/
theorem test_ctrl_write_reads_back :
    (after (.regWrite 0x004 4 0xFFFFFFFF) State.reset).bind (fun s => (after (.regRead 0x004 4) s).map
      State.busData) = some (some 0x0000FF7B) := by decide

/-- V40.8 -/
theorem test_kp_drops_bit31 :
    (after (.regWrite 0x040 4 0xFFFFFFFF) State.reset).map (fun t => t.pi0.kp) =
      some 0x7FFFFFFF := by decide

/-- V40.4 -/
theorem test_reserved_read :
    (after (.regRead 0x024 4) State.reset).map (fun t => (t.busData, t.err, t.irqst)) =
      some (some 0, 0x40, 0x10) := by decide

/-- V40.3 -/
theorem test_cmd_illegal_idx :
    after (.regWrite 0x01C 4 0x201) State.reset =
      some { State.reset with err := 0x20, irqst := 0x10 } := by decide

/-! ## PI controllers (95_test_vectors.md 3.2) -/

/-- V41.1 -/
theorem test_piStep :
    (after (.piStep 0) (piStart 0x8000 0x1000 0x10000 0 0x4000)).map
      (fun t => (t.pi0.imax, t.pi0.integ, t.pi0.out)) =
      some (0x00100000, 0x4000, 0x2400) := by decide

/-- V41.2: the P product wraps to -1.0. -/
theorem test_piStep_mulovf :
    (after (.piStep 0) (piStart 0x7FFFFFFF 0 0x7FFFFFFF 0 0x7FFFFFFF)).map
      (fun t => (t.pi0.integ, t.pi0.out, t.err, t.irqst)) =
      some (0x7FFFFFFF, 0, 0x01, 0x10) := by decide

/-- V41.6 -/
theorem test_piReset :
    (after (.piReset 0) (piStart 0x40000 0 0x10000 0x8000 0x8000)).map
      (fun t => (t.pi0.integ, t.pi0.out, t.pi0.errin)) = some (0, 0, 0x8000) := by decide

/-- V41.7: a wish above the bound is clamped, a negative one gives 0. -/
theorem test_piSeed :
    (after (.piSeed 0) { piStart 0 0x2000 0x10000 0 0 with arg := 0x6000 }).map
      (fun t => t.pi0.integ) = some 0x30000 ∧
    (after (.piSeed 0) { piStart 0 0x2000 0x10000 0 0 with arg := 0xFFFF8000 }).map
      (fun t => t.pi0.integ) = some 0 := by decide

/-- V41.8 -/
theorem test_ki_write_rescales :
    (after (.regWrite 0x044 4 0x2000) (piStart 0 0x1000 0x10000 0x4000 0)).map
      (fun t => (t.pi0.integ, t.pi0.imax)) = some (0x2000, 0x80000) := by decide

/-! ## Waveform (95_test_vectors.md 3.3) -/

/-- V42.1 and V42.2 -/
theorem test_angSetfreq :
    (after .angSetfreq { State.reset with arg := 0x3C0000, wave.pwmfreq := 20000 }).map
      (fun t => (t.wave.adelta, t.err)) = some (0x00C49BA5, 0) ∧
    (after .angSetfreq { State.reset with arg := 0x3C0000 }).map
      (fun t => (t.wave.freq, t.wave.adelta, t.err)) = some (0x3C0000, 0, 2) := by decide

theorem test_angReset :
    (after .angReset { State.reset with wave.angle := 7, wave.pcnt := 3, wave.adelta := 5 }).map
      (fun t => (t.wave.angle, t.wave.pcnt, t.wave.adelta)) = some (0, 0, 5) := by decide

/-- V42.7 -/
theorem test_waveUpdate_sine :
    (after .waveUpdate { State.reset with wave.angle := 0x15555555, wave.amp := 0x10000 }).map
      (fun t => (t.wave.dutyA, t.wave.dutyB, t.wave.dutyC, t.irqst)) =
      some (0xBE2D, 0x0004, 0xC1CE, 0x02) := by decide

/-- V42.10: space vector at 90 degrees. -/
theorem test_waveUpdate_spaceVector :
    (after .waveUpdate { inMode .svpwm with wave.angle := 0x40000000, wave.amp := 0x10000 }).map
      (fun t => (t.wave.dutyA, t.wave.dutyB, t.wave.dutyC)) =
      some (0xE000, 0x2000, 0x2000) := by decide

/-- V42.13: the half-cycle's end closes the window with the new amplitude. -/
theorem test_evPwm_closes_window :
    (after (.evPwm 1) { State.reset with
      wave.angle := 0x7F000000, wave.adelta := 0x02000000, wave.amp := 0x10000
      cur.calgain := 0x100, cur.pkacc := 900, cur.vbus := 0x180000 }).map
      (fun t => (t.wave.angle, t.cur.ipeak, t.cur.iavg, t.cur.pkacc)) =
      some (0x81000000, 0x38400, 0xE100, 0) := by decide

/-- V42.4: below UPDRATE + 1 the event only counts. -/
theorem test_evPwm_counts :
    (after (.evPwm 3) { State.reset with wave.adelta := 0x0083126E, ctrl.updrate := 3 }).map
      (fun t => (t.wave.angle, t.wave.pcnt, t.irqst)) = some (0, 3, 0) := by decide

/-! ## Commutation (95_test_vectors.md 3.4) -/

/-- V43.3 -/
theorem test_cmtHall_reverse_swaps :
    (after .cmtHall { hallMode with cmt.hall := 1, ctrl.dir := true }).map
      (fun t => (t.cmt.phmask, t.irqst)) = some (0x06, 0x08) := by decide

/-- V43.4: an empty entry. -/
theorem test_evHall_nodrive :
    (after (.evHall 0 0) { hallMode with cmt.phmask := 0x09 }).map
      (fun t => (t.cmt.phmask, t.err)) = some (0, 0x04) := by decide

/-- V44.7: the 4 to 5 edge is a speed edge. -/
theorem test_evHall_speed_edge :
    (after (.evHall 5 1000) { hallMode with cmt.hall := 4 }).map
      (fun t => (t.cmt.phmask, t.spd.skip, t.spd.lastedge)) = some (0x18, false, 1000) := by
  decide

/-- V43.8 -/
theorem test_cmtStepset :
    (after (.cmtStepset 5) (bemfMode 0)).map
      (fun t => (t.cmt.cstep, t.cmt.phmask, t.cmt.floatph, t.zc.skipcnt)) =
      some (5, 0x18, 0, 2) := by decide

/-- V43.13: an illegal entry. -/
theorem test_cmtStepset_taberr :
    (after (.cmtStepset 0) { bemfMode 0 with cmt.stab := tableT2.set 0 0x0C3 }).map
      (fun t => (t.cmt.phmask, t.err, t.cmt.floatph)) = some (0, 0x08, 3) := by decide

/-- V43.14 -/
theorem test_cmtStepadv_wraps :
    after .cmtStepadv { State.reset with cmt.cstep := 5 } = some State.reset := by decide

/-- V43.11: no effect outside TRAP_BEMF; V43.8: the next step in it. -/
theorem test_evCmt :
    (after .evCmt { hallMode with cmt.cstep := 3 }).map (fun t => t.cmt.cstep) = some 3 ∧
    (after .evCmt { bemfMode 0 with cmt.cstep := 5 }).map (fun t => (t.cmt.cstep, t.cmt.phmask)) =
      some (0, 0x09) := by decide

/-! ## Speed and zero crossings (95_test_vectors.md 3.5, 3.6) -/

/-- V44.1, edges 3 and 4 -/
theorem test_speedEdge_filters_and_rejects :
    (let s := speedEdge 901000 { speedStart with
       spd.skip := false, spd.seed := false, spd.lastedge := 501000, spd.mspeed := 3000 }
     (s.spd.spdsamp, s.spd.mspeed) = (3750, 3187)) ∧
    (let s := speedEdge 1001000 { speedStart with
       spd.skip := false, spd.seed := false, spd.lastedge := 901000, spd.mspeed := 3187 }
     (s.spd.spdsamp, s.spd.mspeed) = (15000, 3187)) := by decide

/-- V44.6 -/
theorem test_spdReset :
    (after .spdReset { speedStart with
      spd.skip := false, spd.seed := false, spd.mspeed := 1500, spd.edgeage := 2
      spd.spdsamp := 1500 }).map
      (fun t => (t.spd.mspeed, t.spd.edgeage, t.spd.spdsamp, t.spd.skip, t.spd.seed)) =
      some (0, 0, 1500, true, true) := by decide

/-- V45.8 -/
theorem test_zcReset :
    (after .zcReset { bemfMode 0 with zc.zcvalid := true, zc.zcdone := true }).map
      (fun t => (t.zc.zcvalid, t.zc.zcdone, t.zc.skipcnt)) = some (false, false, 2) := by
  decide

/-- V45.1: the crossing sample. -/
theorem test_evAdc_crossing :
    (after (.evAdc 0 0x000C0000 0x00180000 0 4000) (bemfMode 0)).map
      (fun t => (t.zc.zcdone, t.zc.lastzc, t.zc.avgper, t.zc.cmtdly, t.irqst)) =
      some (true, 4000, 20000, 8650, 0x04) := by decide

/-- V46.4: signed temperature and the kept maximum. -/
theorem test_evAdc_latches :
    (after (.evAdc 900 0 0x00180000 0xFFFB0000 0) { State.reset with cur.pkacc := 0x1234 }).map
      (fun t => (t.cur.pkacc, t.cur.vbus, t.cur.temp)) =
      some (0x1234, 0x180000, 0xFFFB0000) := by decide

/-! ## Current and fault monitor (95_test_vectors.md 3.7, 3.8) -/

/-- V46.1 -/
theorem test_windowClose :
    (let s := windowClose { State.reset with
       cur.calgain := 0x100, cur.calofs := 0xFFFF0000, wave.ampeff := 0x8000
       cur.vbus := 0x180000, cur.pkacc := 900 }
     (s.cur.ipeak, s.cur.iavg, s.cur.irms, s.cur.power, s.cur.pkacc) =
       (0x28400, 0xA100, 0x71D8, 0x78C0, 0)) := by decide

/-- V46.8 -/
theorem test_curReset :
    after .curReset { State.reset with
      cur.pkacc := 9, cur.ipeak := 9, cur.iavg := 9, cur.irms := 9, cur.power := 9 } =
      some State.reset := by decide

/-- V46.7 -/
theorem test_evAdcerr :
    after .evAdcerr State.reset = some { State.reset with err := 0x10, irqst := 0x10 } := by
  decide

/-- V47.1: the stall fault at tick 1500. -/
theorem test_evTick_stall :
    (after .evTick { running with mon.stallcnt := 1499 }).map
      (fun t => (t.fault, t.mon.outen, t.mon.runst, t.mon.stallcnt, t.irqst)) =
      some (0x40, false, false, 0, 0x01) := by decide

/-- V47.13: every held condition latches in the same tick. -/
theorem test_evTick_all_held :
    (after .evTick { State.reset with
      mon.vmin := 0x140000, cur.vbus := 0xA0000, mon.tmax := 0x500000, cur.temp := 0x640000
      mon.wdflag := true }).map (fun t => t.fault) = some 0xA2 := by decide

/-- V47.5 -/
theorem test_evWdog_status :
    (after .evWdog State.reset).bind (fun s => (after (.regRead 0x008 4) s).map State.busData) =
      some (some 0x00C0004C) := by decide

/-- V47.4 -/
theorem test_estop :
    (after .estop running).map (fun t => (t.fault, t.mon.outen, t.mon.runst, t.irqst)) =
      some (0x01, false, false, 0x01) := by decide

/-- V47.14 -/
theorem test_faultClear :
    after .faultClear { State.reset with fault := 0x12 } = some State.reset := by decide

/-- V47.10: both refused while a fault is latched. -/
theorem test_outOn_runEnter_refused :
    after .outOn { State.reset with fault := 0x10 } = some { State.reset with fault := 0x10 } ∧
    after .runEnter { State.reset with fault := 0x10 } = some { State.reset with fault := 0x10 } := by
  decide

/-- V47.12 -/
theorem test_runEnter_running_is_noop :
    after .runEnter { running with spd.mspeed := 5, spd.skip := false } =
      some { running with spd.mspeed := 5, spd.skip := false } := by decide

/-- V47.11 -/
theorem test_outOff_runExit :
    (after .outOff running).map (fun t => (t.mon.outen, t.mon.runst)) = some (false, true) ∧
    (after .runExit { running with spd.skip := false }).map
      (fun t => (t.mon.outen, t.mon.runst, t.spd.skip)) = some (true, false, true) := by
  decide

/-! ## Arrivals and reset (95_test_vectors.md 3.10) -/

/-- V70.2: the newest Hall payload is performed, the older one is lost with EVOVR. -/
theorem test_hall_overrun :
    afterStep { State.reset with inputs := [[.event [0x000300E2, 1], .event [0x000100E2, 2]]] } =
      after (.evHall 1 2) { State.reset with err := 0x80, irqst := 0x10 } := by decide

/-- V70.3: three period ends are one EV_PWM with C = 3; each record carries the count of periods since
the last performed EV_PWM (60_exceptions.md R308). -/
theorem test_pwm_coalesces :
    afterStep { State.reset with
      wave.adelta := 7
      inputs := [[.event [0xE0, 1], .event [0xE0, 2], .event [0xE0, 3]]] } =
      after (.evPwm 3) { State.reset with wave.adelta := 7 } := by decide

/-- A full counter loses the period with EVOVR (70_reset_and_hazards.md R331). -/
theorem test_pwm_overrun :
    (arrive (.event [0xE0, 0xFFFFFFFF]) { State.reset with pend.pwm := 0xFFFFFFFF }).toOption.map
      (fun t => (t.pend.pwm, t.err, t.irqst)) = some (0xFFFFFFFF, 0x80, 0x10) := by decide

/-- The reset input drops a waiting access and empties the latches. -/
theorem test_reset_input :
    afterStep { running with
      pend.tick := true
      hostq := [⟨true, 0x014, 4, 5⟩]
      inputs := [[.resetAssert, .resetRelease]] } = some State.reset := by
  decide

/-! ## Witnesses: for each statement a concrete input that meets its hypotheses -/

theorem test_witness_DecodeEncodeRoundTrip :
    ([Instr.piStep 1, .piReset 0, .piSeed 1, .cmtStepset 5, .evPwm 1, .evPwm 0xFFFFFFFF,
      .evHall 7 0xFFFFFFFF, .regRead 0x3FF 4, .regWrite 0x000 4 0].all Instr.wellFormed) = true := by
  decide

theorem test_witness_EncodeDecodeRoundTrip :
    decode .command [0x00000F21#32, 9] = .ok (.cmtStepset 15, [9]) ∧
    decode .event [0xFFFF00E1#32, 0, 0, 0, 0, 9] = .ok (.evAdc 0xFFFF 0 0 0 0, [9]) ∧
    decode .access [0x800003FF#32, 5, 9] = .ok (.regWrite 0x3FF 4 5, [9]) := by decide

/-- One record for each of the four forms, and the state that receives it. -/
theorem test_witness_MalformedEventRecordsRefused :
    (0x000001E3#32).extractLsb' 8 8 ≠ 0 ∧
    ((0x000800E2#32).extractLsb' 0 8 ≠ 0xE1#8 ∧ (0x000800E2#32).extractLsb' 19 13 ≠ 0) ∧
    ((0x000100E0#32).extractLsb' 0 8 ≠ 0xE1#8 ∧ (0x000100E0#32).extractLsb' 0 8 ≠ 0xE2#8 ∧
      (0x000100E0#32).extractLsb' 16 16 ≠ 0) ∧
    (let s := { State.reset with inputs := [[.event [0xE0, 0]]] }
     s.inReset = false ∧ s.inputs.headD [] = [.event (0x000000E0#32 :: [0])]) := by decide

/-- Both ends of every reserved range, a misaligned offset and a wrong size. -/
theorem test_witness_BadAccessRaisesBuserr :
    (∀ o ∈ [0x024, 0x03C, 0x05C, 0x07C, 0x0B8, 0x0BC, 0x13C, 0x15C, 0x1AC, 0x1BC, 0x1E0, 0x3FC],
      reservedOffset o) ∧ (0x001#10).toNat % 4 ≠ 0 ∧ (2 : Nat) ≠ 4 := by
  simp [reservedOffset]

/-- The registers beside every reserved range, and the last entry of each table. -/
theorem test_witness_GoodReadReturnsRegister :
    (∀ o ∈ [0x000#10, 0x020#10, 0x040#10, 0x058#10, 0x060#10, 0x078#10, 0x080#10, 0x0B4#10,
      0x0C0#10, 0x138#10, 0x140#10, 0x158#10, 0x160#10, 0x1A8#10, 0x1C0#10, 0x1DC#10],
      o.toNat % 4 = 0 ∧ ¬ reservedOffset o.toNat) ∧
    [regAt 0x0DC, regAt 0x0FC, regAt 0x12C] =
      [some (.htab120 7), some (.htab60 7), some (.stab 11)] := by
  refine ⟨by simp [reservedOffset], by decide⟩

theorem test_witness_ReadOnlyWritesIgnored :
    (0x1DC#10) ∈ [0x000#10, 0x008#10, 0x1DC#10] := by decide

/-- An operation that sets an error bit and is no host write of ERR or IRQST. -/
theorem test_witness_StickyBitsClearedOnlyByHost :
    ∃ t, exec .evAdcerr State.reset = .next t ∧ t.err ≠ State.reset.err ∧
      (∀ v, Instr.evAdcerr ≠ .regWrite 0x00C 4 v) ∧ (∀ v, Instr.evAdcerr ≠ .regWrite 0x018 4 v) :=
  ⟨_, rfl, by decide, nofun, nofun⟩

theorem test_witness_OperationsKeepHostRegisters :
    Instr.evTick.format ≠ .access ∧ ∃ t, exec .evTick running = .next t := ⟨by decide, _, rfl⟩

/-- One word for each way to be illegal, and the first IDX that is no PI instance. -/
theorem test_witness_IllegalCommandRaisesBadcmd :
    (∀ w ∈ [0x00001000#32, 0x00000110#32, 0x000000E4#32, 0x00000004#32, 0x00000201#32,
      0x00000621#32], ¬ legalCommandWord w) ∧ 2 ≤ (2#4).toNat := by
  simp [legalCommandWord]

theorem test_witness_CommandWritePerformsCommand :
    (∀ w ∈ [0x00000000#32, 0x00000103#32, 0x00000521#32, 0x00000045#32], legalCommandWord w) ∧
    (Instr.cmtStepset 5).format = .command ∧ (Instr.cmtStepset 5).wellFormed = true := by
  simp [legalCommandWord, Instr.format, Instr.wellFormed, stepIdxLegal]

/-- A product that fits and one that does not (V41.2). -/
theorem test_witness_FixmulIsShiftedProduct :
    fixmulOvf 0x8000 0x4000 = false ∧ fixmulOvf 0x7FFFFFFF 0x7FFFFFFF = true := by decide

/-- KI zero and nonzero. -/
theorem test_witness_PiSeedSetsIntegrator :
    (State.reset.pi 0).ki = 0 ∧ ((piStart 0 0x2000 0x10000 0 0).pi 0).ki ≠ 0 := by decide

theorem test_witness_ItermNeverOverflows :
    ((piStart 0x8000 0x1000 0x10000 0x4000 0x4000).pi 0).Inv ∧
    (∃ t, exec (.piStep (BitVec.ofNat 4 (0 : Fin 2).val))
      (piStart 0x8000 0x1000 0x10000 0x4000 0x4000) = .next t) ∧
    fixmulOvf 0x8000 0x4000 = false := ⟨⟨by decide, by decide⟩, ⟨_, rfl⟩, by decide⟩

/-- V41.8, where the clamp does not bind and both gains are at most 1.0. -/
theorem test_witness_GainChangeIsContinuous :
    ((piStart 0 0x1000 0x10000 0x4000 0).pi 0).Inv ∧
    ∃ t, exec (.regWrite (BitVec.ofNat 10 (0x044 + 0x20 * (0 : Fin 2).val)) 4 0x2000)
        (piStart 0 0x1000 0x10000 0x4000 0) = .next t ∧
      (t.pi 0).ki = 0x2000 ∧ 0x4000 * 65536 / 0x2000 * 0x1000 / 65536 ≤ (t.pi 0).imax.toNat :=
  ⟨⟨by decide, by decide⟩, _, rfl, by decide, by decide⟩

/-- V41.12, where the clamp binds. -/
theorem test_witness_GainChangeIsContinuous_bound :
    ((piStart 0 0x10000 0x7FFFFFFF 0x7FFFFFFF 0).pi 0).Inv ∧
    ∃ t, exec (.regWrite (BitVec.ofNat 10 (0x044 + 0x20 * (0 : Fin 2).val)) 4 0x8000)
        (piStart 0 0x10000 0x7FFFFFFF 0x7FFFFFFF 0) = .next t ∧
      (t.pi 0).ki = 0x8000 ∧
      (t.pi 0).imax.toNat < 0x7FFFFFFF * 65536 / 0x8000 * 0x10000 / 65536 :=
  ⟨⟨by decide, by decide⟩, _, rfl, by decide, by decide⟩

theorem test_witness_AngSetfreqComputesDelta :
    State.reset.wave.pwmfreq = 0 ∧
    { State.reset with wave.pwmfreq := 1 }.wave.pwmfreq ≠ 0 := by decide

/-- Every combination of mode, configuration and direction the duties distinguish is a `Ctrl`. -/
theorem test_witness_SineDutiesFollowTable :
    (inMode .sine).ctrl.mode = .sine ∧ (inMode .sine).ctrl.phcfg = .three ∧
    (let c := { (inMode .svpwm).ctrl with phcfg := .bridge, dir := true }
     c.mode = .svpwm ∧ c.phcfg ≠ .three) ∧
    { (inMode .sine).ctrl with phcfg := .one }.phcfg = .one := by decide

theorem test_witness_SpaceVectorAndTrapezoidDuties :
    ((inMode .svpwm).ctrl.mode = .svpwm ∧ (inMode .svpwm).ctrl.phcfg = .three) ∧
    (inMode .trapHall).ctrl.mode = .trapHall ∧ (inMode .trapBemf).ctrl.mode = .trapBemf := by decide

/-- One period short of the update, and exactly at it. -/
theorem test_witness_EvPwmCountsAndUpdates :
    (3#32 ≠ 0 ∧ min (0 + (3#32).toNat) (2 ^ 32 - 1) < (3#8).toNat + 1) ∧
    (4#32 ≠ 0 ∧ (3#8).toNat + 1 ≤ min (0 + (4#32).toNat) (2 ^ 32 - 1)) := by decide

/-- One more period, and as many as the counter holds, after UPDRATE was lowered with five counted. -/
theorem test_witness_AngleAdvancesAdditively :
    (let s := { State.reset with wave.pcnt := 5 }
     s.ctrl.updrate = 0 ∧ s.wave.pcnt.toNat + 1 < 2 ^ 32 ∧
       s.wave.pcnt.toNat + (2 ^ 32 - 6) < 2 ^ 32) := by
  decide

theorem test_witness_ThreePhaseSumStaysInBand :
    State.reset.ctrl.mode = .sine ∧ State.reset.ctrl.phcfg = .three ∧
    sinRom 97 = 65527 ∧ sinRom 193 = -1072 := by decide

theorem test_witness_SetMaskOnChangeOnly :
    (0x09#6) ≠ hallMode.cmt.phmask ∧ (0x00#6) = hallMode.cmt.phmask := by decide

/-- A good, an empty and an illegal entry (V43.2, V43.4, V43.5), and another mode. -/
theorem test_witness_CmtHallAppliesTableMask :
    hallMode.ctrl.mode = .trapHall ∧ (inMode .sine).ctrl.mode ≠ .trapHall ∧
    tableT1[1] = 0x09#6 ∧ tableT1[0] = 0x00#6 ∧
    (∃ p < 3, (0x03#6).getLsbD (2 * p) = true ∧ (0x03#6).getLsbD (2 * p + 1) = true) ∧
    ¬ ∃ p < 3, (0x09#6).getLsbD (2 * p) = true ∧ (0x09#6).getLsbD (2 * p + 1) = true := by decide

theorem test_witness_EvHallLatchesAndLooksUp :
    hallMode.ctrl.mode ≠ .trapBemf ∧ hallMode.cmt.hall.getLsbD 0 = false ∧
    (1#3).getLsbD 0 = true ∧ (bemfMode 0).ctrl.mode = .trapBemf := by decide

/-- Step entries: legal, empty, illegal (V43.8, V43.13), in the forward and the reverse half. -/
theorem test_witness_CmtStepsetAppliesEntry :
    (bemfMode 0).ctrl.mode = .trapBemf ∧ hallMode.ctrl.mode ≠ .trapBemf ∧
    (tableT2[5].truncate 6 : Mask) = 0x18 ∧ (tableT2[11].truncate 6 : Mask) = 0x24 ∧
    ((0x0C3#9).truncate 6 : Mask) = 0x03 ∧ 6 ≤ (6#4).toNat ∧ ((0x000#9).truncate 6 : Mask) = 0 := by decide

/-- The skipped edge, the division by 0, a seeding, a rejected and a filtered sample (V44.1, V44.3). -/
theorem test_witness_SpeedEdgeFiltersSamples :
    speedStart.spd.skip = true ∧
    ((5 + 2 ^ 32 - 5) % 2 ^ 32) * 2 = 0 ∧ ((501000 + 2 ^ 32 - 1000) % 2 ^ 32) * 2 ≠ 0 ∧
    6000 / 2 < ((15000 : Int) - 3187).natAbs ∧ ((3750 : Int) - 3000).natAbs ≤ 6000 / 2 := by decide

theorem test_witness_FilterConvergesMonotonically :
    iir3 0 7 = 1 ∧ iir3 4 7 = 4 ∧ iir3 10 7 = 9 ∧ iir3 8 7 = 7 := by decide

/-- Skipped, crossing and not crossing samples; the threshold itself crosses (V45.1, V45.6). -/
theorem test_witness_EvAdcLatchesAndDetects :
    (bemfMode 2).zc.skipcnt ≠ 0 ∧ (bemfMode 0).zc.skipcnt = 0 ∧ (bemfMode 0).zc.zcdone = false ∧
    (tableT2[0]).extractLsb' 6 2 ≠ 3#2 ∧ (tableT2[0]).getLsbD 8 = false ∧
    0x000C0000 ≤ 0x00180000 / 2 ∧ ¬ 0x000C0001 ≤ 0x00180000 / 2 := by decide

theorem test_witness_ZcDetectIssuesDelay :
    (bemfMode 0).cmt.cstep = 0 ∧ (bemfMode 0).zc.zcvalid = false ∧
    { bemfMode 0 with zc.zcvalid := true, cmt.cstep := 1 }.cmt.cstep ≠ 0 := by decide

/-- A run with samples, a Hall edge, a tick, a host write of the detector's registers and a command
word that is no step change (V45.6 with more operations). -/
theorem test_witness_OneCrossingPerStep :
    (let s := { bemfMode 0 with zc.zcdone := true }
     s.zc.zcdone = true ∧ ∃ t, execAll [.evAdc 9 9 9 9 9, .evHall 1 5, .evTick,
       .regWrite 0x148 4 7, .regWrite 0x01C 4 0x00000012] s = .next t) ∧
    (∀ i ∈ [Instr.evAdc 9 9 9 9 9, .evHall 1 5, .evTick, .regWrite 0x148 4 7,
      .regWrite 0x01C 4 0x00000012], ¬ rearmsDetector i) ∧
    ∀ i ∈ [Instr.evAdc 0 0 0 0 0, .evAdc 9 9 9 9 9],
      ∃ ic vbemf vb tp ts, i = .evAdc ic vbemf vb tp ts := by
  refine ⟨⟨rfl, _, rfl⟩, ?_, by simp⟩
  rintro i hi (rfl | ⟨j, (rfl | rfl | ⟨k, rfl⟩), (rfl | rfl)⟩)
  all_goals revert hi
  all_goals first | decide | (revert k; decide)

/-- The two cases of a tick: nothing held, and one condition held. -/
theorem test_witness_EvTickLatchesHeldConditions :
    heldFaults (speedAge State.reset) = 0 ∧
    heldFaults (speedAge { State.reset with mon.wdflag := true }) = 0x80 := by decide

theorem test_witness_OutputAndRunCommands :
    State.reset.fault = 0 ∧ State.reset.mon.runst = false ∧ running.mon.runst = true ∧
    { State.reset with fault := 0x80 }.fault ≠ 0 := by decide

/-- A latched bit, and an operation that switches the outputs. -/
theorem test_witness_FaultBitsStayUntilCleared :
    (∃ t, exec .outOff { State.reset with fault := 0x80 } = .next t ∧
      ({ State.reset with fault := 0x80 } : State).fault.getLsbD 7 = true) ∧
    ∃ t, exec .outOn State.reset = .next t ∧ t.mon.outen ≠ State.reset.mon.outen :=
  ⟨⟨_, rfl, by decide⟩, _, rfl, by decide⟩

/-- V47.9: one count above the limit. -/
theorem test_witness_OvercurrentTripsAtNextTick :
    ((0xA0000#31).toNat : Int) <
      min (max (((2561#16).toNat : Int) * (0x100#31).toNat + (0#32).toInt) 0) 0x7FFFFFFF := by decide

/-- A run that closes the window once between the reading and the tick: EV_PWM ends a half-cycle. -/
theorem test_witness_OvercurrentTripsAtNextTick_close :
    (let s := { State.reset with
       wave.angle := 0x7F000000, wave.adelta := 0x02000000, cur.calgain := 0x100, cur.pkacc := 2561
       mon.imaxl := 0xA0000 }
     peakLosses [.evPwm 1, .outOff] s = 1) ∧
    ∀ i ∈ [Instr.evPwm 1, .outOff], ¬ changesPeakTest i := by
  refine ⟨by decide, ?_⟩
  rintro i hi (rfl | rfl | ⟨v, rfl | rfl | rfl⟩) <;> simp [lineCmd, lineWr] at hi

/-- A voltage below, one above, a current above and a temperature above their limits. -/
theorem test_witness_HeldConditionRelatches :
    (State.reset.cur.vbus.toNat < ({ State.reset with mon.vmin := 1 } : State).mon.vmin.toNat) ∧
    (({ State.reset with mon.vmax := 0 } : State).mon.vmax.toNat <
      ({ State.reset with cur.vbus := 1 } : State).cur.vbus.toNat) ∧
    ((0 : Int) < max ((1#31).toNat : Int) 0) ∧ ((0xFFCE0000#32).toInt < (0xFFD80000#32).toInt) := by
  decide

theorem test_witness_EveryOperationCompletes :
    (Instr.evPwm 1).wellFormed = true ∧ (Instr.regWrite 0x3FF 4 0).wellFormed = true := by decide

/-- A byte read alone, a write behind a waiting read, and an event. -/
theorem test_witness_StepPerformsDecodedOperation :
    (let s := { State.reset with inputs := [[.bus [0x00000058] 1]] }
     s.inReset = false ∧ s.pend = Pending.empty ∧ s.hostq = [] ∧
       s.inputs.headD [] = [.bus [0x00000058#32] 1]) ∧
    decode .access [0x00000058#32] = .ok (if false then .regWrite 0x058 4 0 else .regRead 0x058 4, [])
      ∧
    (let s := { State.reset with
       hostq := [⟨false, 0x058, 4, 0⟩], inputs := [[.bus [0x80000020, 9] 4]] }
     s.hostq = ⟨false, 0x058, 4, 0⟩ :: [] ∧ s.inputs.headD [] = [.bus [0x80000020#32, 9] 4] ∧
       (afterStep s).map (fun t => (t.hostq, t.busData)) =
         some ([⟨true, 0x020, 4, 9⟩], some 0)) ∧
    decode .access [0x80000020#32, 9] =
      .ok (if true then .regWrite 0x020 4 9 else .regRead 0x020 4, []) ∧
    (let s := { State.reset with inputs := [[.event [0xE0, 1]]] }
     s.inReset = false ∧ s.pend = Pending.empty ∧
       s.inputs.headD [] = [.event [0x000000E0#32, 1]]) ∧
    decode .event [0x000000E0#32, 1] = .ok (.evPwm 1, []) ∧
    (Instr.evPwm 1).wellFormed = true := by decide

/-- Latches in which each kind in turn is the one of highest priority. -/
theorem test_witness_ArbiterFollowsPriority :
    State.reset.inReset = false ∧ State.reset.inputs.headD [] = [] ∧
    (let full : Pending :=
       ⟨1, some ⟨0, 0, 0, 0, 0⟩, some ⟨0, 0⟩, true, true, true, true, false⟩
     (selectEvent full).map Prod.fst = some (.evPwm 1) ∧
     (selectEvent { full with pwm := 0 }).map Prod.fst = some (.evAdc 0 0 0 0 0) ∧
     (selectEvent { full with pwm := 0, adcErrFirst := true }).map Prod.fst = some .evAdcerr ∧
     (selectEvent { full with pwm := 0, adc := none }).map Prod.fst = some .evAdcerr ∧
     (selectEvent { full with pwm := 0, adc := none, adcErr := false }).map Prod.fst =
       some (.evHall 0 0) ∧
     (selectEvent { Pending.empty with cmt := true, tick := true }).map Prod.fst = some .evCmt ∧
     (selectEvent { Pending.empty with tick := true, wdog := true }).map Prod.fst = some .evTick ∧
     (selectEvent { Pending.empty with wdog := true }).map Prod.fst = some .evWdog ∧
     (selectEvent Pending.empty).map Prod.fst = none) := by decide

/-- Every latch full, and one arrival of each kind: the newest payload stands, EVOVR is flagged, and
EV_ADC and EV_ADCERR stand behind each other as log 3 says. -/
theorem test_witness_OverrunKeepsNewestPayload :
    (let s := { State.reset with
       pend := ⟨0, some ⟨0, 0, 0, 0, 0⟩, some ⟨0, 0⟩, true, true, true, true, true⟩ }
     let at' := fun i => (arrive (.event (encode i)) s).toOption
     s.inReset = false ∧
     (at' (.evHall 5 6)).map (fun t => (t.err, t.irqst, t.pend.hall)) =
       some (0x80, 0x10, some ⟨5, 6⟩) ∧
     (at' (.evAdc 1 2 3 4 5)).map (fun t => (t.err, t.pend.adc, t.pend.adcErrFirst)) =
       some (0x80, some ⟨1, 2, 3, 4, 5⟩, true) ∧
     (at' .evAdcerr).map (fun t => (t.err, t.pend.adcErr, t.pend.adcErrFirst)) =
       some (0x80, true, false) ∧
     [Instr.evCmt, .evTick, .evWdog].map (fun i => (at' i).map State.err) =
       [some 0x80, some 0x80, some 0x80]) := by decide

/-- Period ends that carry the count so far, as R308 says, inside the counter's range and one beyond it;
a record that carries more than the one arrival seen. -/
theorem test_witness_PwmPeriodsAreNeverLost :
    State.reset.inReset = false ∧
    (∀ (k : Nat) (h : k < [1#32, 2#32, 3#32].length), [1#32, 2#32, 3#32][k] ≠ 0 ∧
      [1#32, 2#32, 3#32][k].toNat ≤ State.reset.pend.pwm.toNat + k + 1) ∧
    State.reset.pend.pwm.toNat + [1#32, 2#32, 3#32].length ≤ 2 ^ 32 - 1 ∧
    (let s := { State.reset with pend.pwm := 0xFFFFFFFF }
     (0xFFFFFFFF#32).toNat ≤ s.pend.pwm.toNat + 0 + 1 ∧
       2 ^ 32 - 1 < s.pend.pwm.toNat + [0xFFFFFFFF#32].length) ∧
    State.reset.pend.pwm.toNat + 1 < (9#32).toNat := by
  refine ⟨rfl, ?_, by decide, by decide, by decide⟩
  intro k h
  match k with
  | 0 => exact ⟨by simp, by simp⟩
  | 1 => exact ⟨by simp, by simp⟩
  | 2 => exact ⟨by simp, by simp⟩

theorem test_witness_ResetInputResetsEverything :
    (assertReset State.reset).inReset = true := by decide

/-- The last offsets before and after the listed exceptions are registers that reset to 0. -/
theorem test_witness_ResetValuesAsStated :
    (0x1DC#10).toNat % 4 = 0 ∧ ¬ reservedOffset (0x1DC#10).toNat ∧
    (0x1DC#10) ∉ [0x000#10, 0x004#10, 0x1D8#10] := by
  simp [reservedOffset]

/-- A tripped state with a fault latched, and a step from it. -/
theorem test_witness_StepKeepsInvariants :
    (let s := { State.reset with fault := 0x10, inputs := [[.event [0x000000E4]]] }
     s.pi0.Inv ∧ s.pi1.Inv ∧ s.wave.Inv ∧ s.cmt.Inv ∧ s.Tripped ∧ ∃ t, step s = .next t) := by
  refine ⟨⟨by decide, by decide⟩, ⟨by decide, by decide⟩, ⟨by decide, by decide, by decide⟩,
    (by decide : maskIllegal 0 = false), fun _ => ⟨rfl, rfl⟩, ?_⟩
  exact ⟨_, rfl⟩

end Sys2Proof.Tests
end

section
/-! PROOFS. `fixmul` as bits [47:16] of the product (00_scope.md R6): both branches of `fixmul` are
the shifted product wrapped to 32 signed bits, and so is the field cut out of the 64-bit word. -/

namespace Sys2Proof.Machine

/-- The overflow flag is clear exactly on a product that fits 32 signed bits (00_scope.md R6). -/
theorem fixmulOvf_eq_false_iff (a b : Int) :
    fixmulOvf a b = false ↔ -2147483648 ≤ fixprod a b ∧ fixprod a b ≤ 2147483647 := by
  rw [fixmulOvf, Bool.not_eq_false', fits32_iff]

theorem fixprod_bounds (a b : Int) :
    fixprod a b * 65536 ≤ a * b ∧ a * b < (fixprod a b + 1) * 65536 :=
  ⟨Int.ediv_mul_le _ (by decide), Int.lt_ediv_add_one_mul_self _ (by decide)⟩

/-- Wrapping leaves a product that fits as it is, so one formula covers both branches. -/
theorem fixmul_eq_bmod (a b : Int) : fixmul a b = (fixprod a b).bmod (2 ^ 32) := by
  unfold fixmul
  split
  · next hfits =>
    obtain ⟨hlo, hhi⟩ := (fits32_iff _).1 hfits
    exact (Int.bmod_eq_of_le (by omega) (by omega)).symm
  · rfl

/-- Bits [47:16] of a 64-bit word read as a signed number. -/
theorem toInt_extract_product (p : Int) :
    ((BitVec.ofInt 64 p).extractLsb' 16 32).toInt = (p / 65536).bmod (2 ^ 32) := by
  have hfield : (BitVec.ofInt 64 p).extractLsb' 16 32 = BitVec.ofInt 32 (p / 65536) := by
    apply BitVec.eq_of_toNat_eq
    simp only [BitVec.extractLsb'_toNat, BitVec.toNat_ofInt, Nat.shiftRight_eq_div_pow]
    omega
  rw [hfield, BitVec.toInt_ofInt]

/-- Settles O18: the flag by its range law, the floor by the division's bounds, the bits by writing
both sides as the wrapped shifted product. -/
theorem fixmulIsShiftedProduct : Obligations.FixmulIsShiftedProduct := by
  intro a b
  refine ⟨?_, fun hfits => ?_, ?_⟩
  · exact fixmulOvf_eq_false_iff a b
  · rw [fixmul_eq_fixprod hfits]
    exact fixprod_bounds a b
  · rw [fixmul_eq_bmod, toInt_extract_product, fixprod]

end Sys2Proof.Machine
end

section
/-! PROOFS. What an operation can answer, said once: each meaning's branches, the words written to
`CMD`, and the host accesses. Invariants of all operations are proved through these rules. -/

namespace Sys2Proof.Machine

/-- `P` holds of the next state, if the outcome is one. -/
def Ensures (P : State → Prop) (o : Host.Outcome State Fault Refusal) : Prop :=
  ∀ t, o = .next t → P t

variable {P : State → Prop} {s : State}

@[simp] theorem ensures_next {t : State} : Ensures P (.next t) ↔ P t := by
  simp [Ensures]

@[simp] theorem ensures_refused {r : Refusal} : Ensures P (.refused r) := by
  simp [Ensures]

/-! ## Commands with an operand -/

theorem execPiStep_ensures (n : BitVec 4)
    (hstep : ∀ k, P ((s.setPi k (piStepRegs (s.pi k))).flagIf (piStepOvf (s.pi k)) .mulovf))
    (hbad : P (s.raise .badcmd)) : Ensures P (execPiStep n s) := by
  unfold execPiStep
  split
  · exact ensures_next.2 (hstep _)
  · exact ensures_next.2 hbad

theorem execPiReset_ensures (n : BitVec 4)
    (hreset : ∀ k, P (s.setPi k (piResetRegs (s.pi k))))
    (hbad : P (s.raise .badcmd)) : Ensures P (execPiReset n s) := by
  unfold execPiReset
  split
  · exact ensures_next.2 (hreset _)
  · exact ensures_next.2 hbad

theorem execPiSeed_ensures (n : BitVec 4)
    (hseed : ∀ k, P (s.setPi k (piSeedRegs s.arg (s.pi k))))
    (hbad : P (s.raise .badcmd)) : Ensures P (execPiSeed n s) := by
  unfold execPiSeed
  split
  · exact ensures_next.2 (hseed _)
  · exact ensures_next.2 hbad

theorem execCmtStepset_ensures (k : BitVec 4) (hstep : ∀ j, P (enterStep j s))
    (hbad : P (s.raise .badcmd)) : Ensures P (execCmtStepset k s) := by
  unfold execCmtStepset
  split
  · exact ensures_next.2 (hstep _)
  · exact ensures_next.2 hbad

/-! ## Words written to `CMD` and host accesses -/

/-- A command has one meaning, whether the dispatch or a write of `CMD` performs it. -/
theorem runCommand_eq_exec {i : Instr} (hi : i.format = .command) (s : State) :
    runCommand i s = exec i s := by
  cases i with
  | evPwm | evAdc | evHall | evCmt | evTick | evWdog | evAdcerr | regRead | regWrite => exact nomatch hi
  | _ => rfl

theorem runCommand_eq_badcmd {i : Instr} (hi : i.format ≠ .command) (s : State) :
    runCommand i s = .next (s.raise .badcmd) := by
  cases i with
  | evPwm | evAdc | evHall | evCmt | evTick | evWdog | evAdcerr | regRead | regWrite => rfl
  | _ => exact absurd rfl hi

theorem execute_ensures (w : Word)
    (hcmd : ∀ i : Instr, i.format = .command → Ensures P (exec i s))
    (hbad : P (s.raise .badcmd)) : Ensures P (execute w s) := by
  unfold execute
  split
  · next i _ =>
    by_cases hi : i.format = .command
    · rw [runCommand_eq_exec hi]
      exact hcmd i hi
    · rw [runCommand_eq_badcmd hi]
      exact ensures_next.2 hbad
  · exact ensures_next.2 hbad

theorem execRegRead_ensures (o : BitVec 10) (n : Nat)
    (hread : ∀ w, P { s with busData := some w })
    (hbad : P (State.raise .buserr { s with busData := some 0 })) :
    Ensures P (execRegRead o n s) := by
  unfold execRegRead
  split
  · exact ensures_next.2 (hread _)
  · exact ensures_next.2 hbad

/-- A host write performs a command, writes a register other than `CMD`, or raises an error. -/
theorem execRegWrite_ensures (o : BitVec 10) (n : Nat) (v : Word)
    (hcmd : ∀ i : Instr, i.format = .command → Ensures P (exec i s))
    (hreg : ∀ r, accessedReg o n = some r → P (writeReg r v s))
    (hraise : ∀ e, P (s.raise e)) : Ensures P (execRegWrite o n v s) := by
  unfold execRegWrite
  split
  · next r hr =>
    split
    · exact execute_ensures v hcmd (hraise _)
    · exact ensures_next.2 (hreg r hr)
  · exact ensures_next.2 (hraise _)

/-- Only a 32-bit access at a register's own offset reaches it. -/
theorem eq_of_accessedReg {o : BitVec 10} {n : Nat} {r : Reg} (h : accessedReg o n = some r) :
    n = 4 ∧ o = BitVec.ofNat 10 (regOffset r) := by
  unfold accessedReg at h
  split at h
  · next hn => exact ⟨hn, by rw [regOffset_of_regAt h, BitVec.ofNat_toNat, BitVec.setWidth_eq]⟩
  · cases h

end Sys2Proof.Machine
end

section
/-! PROOFS. The invariants of every state (10_state.md R32, 47_fault_monitor.md R291): the reset state
has them, each operation keeps them, and so does every step. -/

namespace Sys2Proof.Machine

/-! ## What the invariants read -/

/-- The parts of the state that the invariants read. -/
structure InvView where
  pi0 : PiRegs
  pi1 : PiRegs
  dutyA : Duty
  dutyB : Duty
  dutyC : Duty
  phmask : Mask
  fault : BitVec 8
  outen : Bool
  runst : Bool

/-- What the invariants see of a state. -/
def State.invView (s : State) : InvView :=
  { pi0 := s.pi0, pi1 := s.pi1, dutyA := s.wave.dutyA, dutyB := s.wave.dutyB, dutyC := s.wave.dutyC,
    phmask := s.cmt.phmask, fault := s.fault, outen := s.mon.outen, runst := s.mon.runst }

/-- The invariants read nothing but the view. -/
theorem State.Inv.of_view {s t : State} (h : s.Inv) (hv : t.invView = s.invView) : t.Inv := by
  simp only [State.invView, InvView.mk.injEq] at hv
  obtain ⟨hpi0, hpi1, hA, hB, hC, hmask, hfault, hout, hrun⟩ := hv
  exact {
    pi0 := hpi0 ▸ h.pi0
    pi1 := hpi1 ▸ h.pi1
    duties := by simpa only [WaveRegs.Inv, hA, hB, hC] using h.duties
    mask := by simpa only [CmtRegs.Inv, hmask] using h.mask
    tripped := by simpa only [State.Tripped, hfault, hout, hrun] using h.tripped }

/-! ## The reset state -/

theorem PiRegs.reset_inv : PiRegs.reset.Inv := ⟨by decide, by decide⟩

theorem State.reset_inv : State.reset.Inv where
  pi0 := PiRegs.reset_inv
  pi1 := PiRegs.reset_inv
  duties := ⟨by decide, by decide, by decide⟩
  mask := (by decide : maskIllegal 0 = false)
  tripped := fun h => absurd rfl h

/-- Settles O59: each invariant is checked on the reset values. -/
theorem resetSatisfiesInvariants : Obligations.ResetSatisfiesInvariants := State.reset_inv

/-! ## Sticky bits -/

variable {s t : State}

theorem State.Inv.flag (h : s.Inv) (e : ErrBit) : (s.flag e).Inv := h.of_view rfl

theorem State.Inv.raise (h : s.Inv) (e : ErrBit) : (s.raise e).Inv := h.flag e

theorem State.Inv.flagIf (h : s.Inv) (b : Bool) (e : ErrBit) : (s.flagIf b e).Inv := by
  rw [flagIf_eq]
  exact h.of_view rfl

/-! ## PI controllers (41_pi.md R141 to R146) -/

/-- A bound and an integrator cut to it satisfy the invariant: the bound fits its register. -/
theorem PiRegs.inv_of_bound {p : PiRegs} {x : Nat}
    (himax : p.imax = BitVec.ofNat 31 (imaxOf p.ki.toNat p.outmax.toNat))
    (hinteg : p.integ = BitVec.ofNat 31 (min x (imaxOf p.ki.toNat p.outmax.toNat))) : p.Inv := by
  have hle := imaxOf_le p.ki.toNat p.outmax.toNat
  rw [PiRegs.Inv, himax, hinteg, BitVec.toNat_ofNat, BitVec.toNat_ofNat]
  omega

theorem PiRegs.Inv.step {p : PiRegs} (h : p.Inv) : (piStepRegs p).Inv := by
  have hle := (piStepInteg_mem p).2
  rw [← toNat_piStepInteg p] at hle
  exact ⟨Int.ofNat_le.1 hle, h.2⟩

theorem PiRegs.Inv.reset {p : PiRegs} (h : p.Inv) : (piResetRegs p).Inv := ⟨Nat.zero_le _, h.2⟩

theorem PiRegs.Inv.seed {p : PiRegs} (h : p.Inv) (arg : Word) : (piSeedRegs arg p).Inv := by
  refine ⟨?_, h.2⟩
  simp only [piSeedRegs]
  split
  · exact Nat.zero_le _
  · have hlt := uval_lt p.imax
    have h0 := le_clamp (x := max arg.toInt 0 * 65536 / uval p.ki) (uval_nonneg p.imax)
    have h1 := clamp_le (x := max arg.toInt 0 * 65536 / uval p.ki) (lo := 0) (hi := uval p.imax)
    have heq := toNat_toNonNeg h0 (by omega)
    simp only [uval] at *
    omega

theorem PiRegs.Inv.write {p : PiRegs} (h : p.Inv) (v : Word) (q : PiReg) : (writePi v p q).Inv := by
  cases q with
  | ki => exact PiRegs.inv_of_bound rfl rfl
  | outmax => exact PiRegs.inv_of_bound rfl rfl
  | kp | errin | integ | imax | out => exact h

theorem State.Inv.pi (h : s.Inv) (n : Fin 2) : (s.pi n).Inv := by
  match n with
  | 0 => exact h.pi0
  | 1 => exact h.pi1

theorem State.Inv.setPi (h : s.Inv) (n : Fin 2) {p : PiRegs} (hp : p.Inv) : (s.setPi n p).Inv := by
  match n with
  | 0 => exact { h with pi0 := hp }
  | 1 => exact { h with pi1 := hp }

/-! ## Waveform (42_waveform.md R176) -/

theorem waveRegsUpdate_inv (n : Nat) (s : State) : (waveRegsUpdate n s).Inv := dutiesOf_le _ _ _

theorem State.Inv.waveUpdate (h : s.Inv) (n : Nat) : (waveUpdate n s).Inv := by
  rw [waveUpdate_frame]
  exact { h with duties := waveRegsUpdate_inv n s }

theorem State.Inv.execEvPwm (h : s.Inv) (c : Word) : Ensures State.Inv (execEvPwm c s) := by
  unfold Machine.execEvPwm
  split
  · exact ensures_refused
  · dsimp only
    have ht : ∀ n, State.Inv { s with pend.pwm := 0, wave.pcnt := n } := fun _ => h.of_view rfl
    split
    · exact ensures_next.2 (((ht _).waveUpdate _).of_view rfl)
    · exact ensures_next.2 (ht _)

theorem State.Inv.execAngSetfreq (h : s.Inv) : Ensures State.Inv (execAngSetfreq s) := by
  refine ensures_next.2 ?_
  split <;> exact h.of_view rfl

/-! ## Commutation (43_commutation.md R202) -/

theorem State.Inv.lookupHall (h : s.Inv) : (lookupHall s).Inv := by
  rw [lookupHall_frame]
  exact { h with mask := hallMask_legal _ _ }

theorem State.Inv.applyStep (h : s.Inv) : (applyStep s).Inv := by
  rw [applyStep_frame]
  exact { h with mask := appliedMask_legal _ }

theorem State.Inv.enterStep (h : s.Inv) (k : Fin 6) : (enterStep k s).Inv := by
  have ht : State.Inv { s with cmt := { s.cmt with cstep := k } } := h.of_view rfl
  unfold Machine.enterStep
  dsimp only
  split
  · exact ht.applyStep.of_view rfl
  · exact ht

/-! ## Speed edges and zero crossings -/

theorem State.Inv.speedEdge (h : s.Inv) (ts : Word) : (speedEdge ts s).Inv := by
  rw [speedEdge_frame]
  exact h.of_view rfl

theorem State.Inv.zcDetect (h : s.Inv) (ts : Word) : (zcDetect ts s).Inv := by
  rw [zcDetect_frame]
  exact h.of_view rfl

theorem State.Inv.bemfSample (h : s.Inv) (vbemf : NonNeg) (ts : Word) :
    (bemfSample vbemf ts s).Inv := by
  rcases bemfSample_cases vbemf ts s with heq | ⟨_, _, heq⟩ | ⟨_, _, heq⟩ <;> rw [heq]
  · exact h
  · exact h.of_view rfl
  · exact h.zcDetect ts

theorem State.Inv.execEvAdc (h : s.Inv) (ic : BitVec 16) (vbemf vb tp ts : Word) :
    Ensures State.Inv (execEvAdc ic vbemf vb tp ts s) := by
  have ht : State.Inv { s with cur := adcLatch ic vb tp s.cur } := h.of_view rfl
  refine ensures_next.2 ?_
  split
  · exact ht.bemfSample _ _
  · exact ht

theorem State.Inv.execEvHall (h : s.Inv) (e : BitVec 3) (ts : Word) :
    Ensures State.Inv (execEvHall e ts s) := by
  have ht : State.Inv { s with cmt := { s.cmt with hall := e } } := h.of_view rfl
  have hu : State.Inv (if s.ctrl.mode = .trapHall
      then Machine.lookupHall { s with cmt := { s.cmt with hall := e } }
      else { s with cmt := { s.cmt with hall := e } }) := by
    split
    · exact ht.lookupHall
    · exact ht
  refine ensures_next.2 ?_
  split
  · exact hu.speedEdge ts
  · exact hu

/-! ## Faults and output control (47_fault_monitor.md R291) -/

/-- The trip itself establishes the law of tripped states. -/
theorem State.Inv.takeFault (h : s.Inv) (held : BitVec 8) : (takeFault held s).Inv :=
  { h with tripped := takeFault_tripped held s }

theorem State.Inv.monTick (h : s.Inv) : (monTick s).Inv := h.of_view rfl

theorem State.Inv.execEvTick (h : s.Inv) : Ensures State.Inv (execEvTick s) := by
  have ht : (speedAge s).Inv := h.of_view rfl
  refine ensures_next.2 ?_
  split
  · exact ht.monTick
  · exact ht.monTick.takeFault _

theorem State.Inv.clearFaults (h : s.Inv) : (clearFaults s).Inv :=
  { h with tripped := fun hne => absurd rfl hne }

/-- Turning the outputs on is refused while a fault is latched. -/
theorem State.Inv.execOutOn (h : s.Inv) : Ensures State.Inv (execOutOn s) := by
  refine ensures_next.2 ?_
  split
  · next hclear => exact { h with tripped := fun hne => absurd hclear hne }
  · exact h

theorem State.Inv.execOutOff (h : s.Inv) : Ensures State.Inv (execOutOff s) :=
  ensures_next.2 { h with tripped := fun hne => ⟨rfl, (h.tripped hne).2⟩ }

/-- Starting to run is refused while a fault is latched. -/
theorem State.Inv.execRunEnter (h : s.Inv) : Ensures State.Inv (execRunEnter s) := by
  refine ensures_next.2 ?_
  split
  · next hclear => exact { h with tripped := fun hne => absurd hclear.1 hne }
  · exact h

theorem State.Inv.execRunExit (h : s.Inv) : Ensures State.Inv (execRunExit s) := by
  refine ensures_next.2 ?_
  split
  · exact { h with tripped := fun hne => ⟨(h.tripped hne).1, rfl⟩ }
  · exact h

/-! ## All operations -/

/-- Commands and events keep the invariants. -/
theorem State.Inv.exec_of_not_access (h : s.Inv) {i : Instr} (hi : i.format ≠ .access) :
    Ensures State.Inv (exec i s) := by
  cases i with
  | nop => exact ensures_next.2 h
  | piStep n =>
    exact execPiStep_ensures n (fun k => (h.setPi k (h.pi k).step).flagIf _ _) (h.raise _)
  | piReset n => exact execPiReset_ensures n (fun k => h.setPi k (h.pi k).reset) (h.raise _)
  | piSeed n => exact execPiSeed_ensures n (fun k => h.setPi k ((h.pi k).seed _)) (h.raise _)
  | angReset => exact ensures_next.2 (h.of_view rfl)
  | angSetfreq => exact h.execAngSetfreq
  | waveUpdate => exact ensures_next.2 (h.waveUpdate 0)
  | cmtHall =>
    refine ensures_next.2 ?_
    split
    · exact h.lookupHall
    · exact h
  | cmtStepset k => exact execCmtStepset_ensures k h.enterStep (h.raise _)
  | cmtStepadv => exact ensures_next.2 (h.enterStep _)
  | zcReset => exact ensures_next.2 (h.of_view rfl)
  | spdReset => exact ensures_next.2 (h.of_view rfl)
  | curReset => exact ensures_next.2 (h.of_view rfl)
  | faultClear => exact ensures_next.2 h.clearFaults
  | estop => exact ensures_next.2 (h.takeFault _)
  | outOn => exact h.execOutOn
  | outOff => exact h.execOutOff
  | runEnter => exact h.execRunEnter
  | runExit => exact h.execRunExit
  | evPwm c => exact h.execEvPwm c
  | evAdc ic vbemf vb tp ts => exact h.execEvAdc ic vbemf vb tp ts
  | evHall e ts => exact h.execEvHall e ts
  | evCmt =>
    refine ensures_next.2 ?_
    split
    · exact h.enterStep _
    · exact h
  | evTick => exact h.execEvTick
  | evWdog => exact ensures_next.2 (h.of_view rfl)
  | evAdcerr => exact ensures_next.2 (h.flag _)
  | regRead | regWrite => exact absurd rfl hi

/-- No register the host can write is read by the invariants, but those of the PI controllers. -/
theorem State.Inv.writeReg (h : s.Inv) (r : Reg) (v : Word) : (writeReg r v s).Inv := by
  cases r with
  | pi n q => exact h.setPi n ((h.pi n).write v q)
  | _ => exact h.of_view rfl

theorem State.Inv.exec (h : s.Inv) (i : Instr) : Ensures State.Inv (exec i s) := by
  cases i with
  | regRead o n =>
    exact execRegRead_ensures o n (fun _ => h.of_view rfl) (h.of_view rfl)
  | regWrite o n v =>
    exact execRegWrite_ensures o n v (fun j hj => h.exec_of_not_access (by simp [hj]))
      (fun r _ => h.writeReg r v) h.raise
  | _ => exact h.exec_of_not_access nofun

/-! ## Steps -/

theorem State.Inv.of_sameBlock (h : s.Inv) (hst : SameBlock s t) : t.Inv := by
  rw [hst]
  exact h.of_view rfl

theorem assertReset_inv (s : State) : (assertReset s).Inv := State.reset_inv.of_view rfl

theorem State.Inv.arriveAll (h : s.Inv) {xs : List Input} (ht : arriveAll xs s = .ok t) : t.Inv :=
  arriveAll_induct assertReset_inv (fun _ _ hst hs => hs.of_sameBlock hst) ht h

theorem State.Inv.select (h : s.Inv) {i : Instr} (ht : select s = some (i, t)) : t.Inv := by
  rw [select_frame ht]
  exact h.of_view rfl

/-- Settles O60: arrivals keep the invariants, the arbiter only empties a latch or the queue, and
every operation it can select keeps them. -/
theorem stepKeepsInvariants : Obligations.StepKeepsInvariants := by
  intro s t hs hstep
  obtain ⟨u, harrive, hcases⟩ := step_cases hstep
  have hbegin : (beginStep s).Inv := hs.of_view rfl
  have hu : u.Inv := hbegin.arriveAll harrive
  rcases hcases with ⟨rfl, -⟩ | ⟨-, i, v, hsel, hexec⟩
  · exact hu
  · exact (hu.select hsel).exec i t hexec

end Sys2Proof.Machine
end

section
/-! PROOFS. Sticky bits (10_state.md R24, R26, 60_exceptions.md R304): every operation only sets bits of
`ERR` and `IRQST`, but for a host write of the register itself. -/

namespace Sys2Proof.Machine

variable {s : State}

/-! ## Commands and events -/

theorem execPiStep_grows (n : BitVec 4) (s : State) : Ensures (FlagsGrow s) (execPiStep n s) :=
  execPiStep_ensures n
    (fun k => FlagsGrow.trans (t := s.setPi k (piStepRegs (s.pi k)))
      (.of_eq (setPi_err _ _ _) (setPi_irqst _ _ _)) (.flagIf _ _ _))
    (.flag _ _)

theorem execAngSetfreq_grows (s : State) : Ensures (FlagsGrow s) (execAngSetfreq s) := by
  refine ensures_next.2 ?_
  split
  · exact .flag .div0 { s with wave := _ }
  · exact .of_eq rfl rfl

theorem execEvPwm_grows (c : Word) (s : State) : Ensures (FlagsGrow s) (execEvPwm c s) := by
  unfold execEvPwm
  split
  · exact ensures_refused
  · dsimp only
    split
    · exact ensures_next.2
        (waveUpdate_grows _ { s with pend.pwm := 0, wave.pcnt := BitVec.ofNat 32 _ })
    · exact ensures_next.2 (.of_eq rfl rfl)

theorem execEvAdc_grows (ic : BitVec 16) (vbemf vb tp ts : Word) (s : State) :
    Ensures (FlagsGrow s) (execEvAdc ic vbemf vb tp ts s) := by
  refine ensures_next.2 ?_
  split
  · exact bemfSample_grows _ _ { s with cur := adcLatch ic vb tp s.cur }
  · exact .of_eq rfl rfl

theorem execEvHall_grows (e : BitVec 3) (ts : Word) (s : State) :
    Ensures (FlagsGrow s) (execEvHall e ts s) := by
  have hlookup : FlagsGrow s (if s.ctrl.mode = .trapHall
      then lookupHall { s with cmt := { s.cmt with hall := e } }
      else { s with cmt := { s.cmt with hall := e } }) := by
    split
    · exact lookupHall_grows { s with cmt := { s.cmt with hall := e } }
    · exact .of_eq rfl rfl
  refine ensures_next.2 ?_
  split
  · exact hlookup.trans (speedEdge_grows _ _)
  · exact hlookup

theorem execEvTick_grows (s : State) : Ensures (FlagsGrow s) (execEvTick s) := by
  refine ensures_next.2 ?_
  split
  · exact .of_eq rfl rfl
  · exact takeFault_grows _ (monTick (speedAge s))

/-- Commands and events clear no sticky bit. -/
theorem exec_grows_of_not_access {i : Instr} (hi : i.format ≠ .access) (s : State) :
    Ensures (FlagsGrow s) (exec i s) := by
  cases i with
  | piStep n => exact execPiStep_grows n s
  | piReset n =>
    exact execPiReset_ensures n (fun _ => .of_eq (setPi_err _ _ _) (setPi_irqst _ _ _)) (.flag _ _)
  | piSeed n =>
    exact execPiSeed_ensures n (fun _ => .of_eq (setPi_err _ _ _) (setPi_irqst _ _ _)) (.flag _ _)
  | angSetfreq => exact execAngSetfreq_grows s
  | waveUpdate => exact ensures_next.2 (waveUpdate_grows 0 s)
  | cmtHall =>
    refine ensures_next.2 ?_
    split
    · exact lookupHall_grows s
    · exact .refl s
  | cmtStepset k => exact execCmtStepset_ensures k (enterStep_grows · s) (.flag _ _)
  | cmtStepadv => exact ensures_next.2 (enterStep_grows _ s)
  | estop => exact ensures_next.2 (takeFault_grows _ s)
  | evPwm c => exact execEvPwm_grows c s
  | evAdc ic vbemf vb tp ts => exact execEvAdc_grows ic vbemf vb tp ts s
  | evHall e ts => exact execEvHall_grows e ts s
  | evCmt =>
    refine ensures_next.2 ?_
    split
    · exact enterStep_grows _ s
    · exact .refl s
  | evTick => exact execEvTick_grows s
  | evAdcerr => exact ensures_next.2 (.flag _ s)
  | outOn | runEnter | runExit =>
    refine ensures_next.2 ?_
    split <;> exact .of_eq rfl rfl
  | nop | angReset | zcReset | spdReset | curReset | faultClear | outOff | evWdog =>
    exact ensures_next.2 (.of_eq rfl rfl)
  | regRead | regWrite => exact absurd rfl hi

/-! ## Host accesses -/

theorem writeReg_err {r : Reg} (hr : r ≠ .err) (v : Word) (s : State) :
    (writeReg r v s).err = s.err := by
  cases r with
  | err => exact absurd rfl hr
  | pi n q => exact setPi_err _ _ _
  | _ => rfl

theorem writeReg_irqst {r : Reg} (hr : r ≠ .irqst) (v : Word) (s : State) :
    (writeReg r v s).irqst = s.irqst := by
  cases r with
  | irqst => exact absurd rfl hr
  | pi n q => exact setPi_irqst _ _ _
  | _ => rfl

/-- What an operation can do to the sticky bits: set some, or clear bits of `ERR` alone or of `IRQST`
alone as a 32-bit host write of that register. -/
theorem exec_sticky_cases (i : Instr) (s : State) :
    Ensures (fun t => FlagsGrow s t ∨
      ((∃ v, i = .regWrite 0x00C 4 v) ∧ t.irqst = s.irqst) ∨
      ((∃ v, i = .regWrite 0x018 4 v) ∧ t.err = s.err)) (exec i s) := by
  by_cases hi : i.format = .access
  · cases i with
    | regRead o n =>
      exact execRegRead_ensures o n (fun _ => .inl (.of_eq rfl rfl))
        (.inl (.flag .buserr { s with busData := some 0 }))
    | regWrite o n v =>
      refine execRegWrite_ensures o n v
        (fun j hj t ht => .inl (exec_grows_of_not_access (by simp [hj]) s t ht))
        (fun r hr => ?_) (fun e => .inl (.flag e s))
      obtain ⟨rfl, rfl⟩ := eq_of_accessedReg hr
      by_cases herr : r = .err
      · subst herr
        exact .inr (.inl ⟨⟨v, rfl⟩, rfl⟩)
      by_cases hirq : r = .irqst
      · subst hirq
        exact .inr (.inr ⟨⟨v, rfl⟩, rfl⟩)
      · exact .inl (.of_eq (writeReg_err herr v s) (writeReg_irqst hirq v s))
    | _ => exact nomatch hi
  · exact fun t ht => .inl (exec_grows_of_not_access hi s t ht)

/-- Settles O12: an operation sets sticky bits, or it is the host's write of the one register whose bits
it clears. -/
theorem stickyBitsClearedOnlyByHost : Obligations.StickyBitsClearedOnlyByHost := by
  intro i s t hexec
  rcases exec_sticky_cases i s t hexec with hgrow | ⟨⟨v, hi⟩, hirqst⟩ | ⟨⟨v, hi⟩, herr⟩
  · obtain ⟨herr, hirqst, hnew⟩ := hgrow.bits
    exact ⟨fun _ => ⟨herr, hnew⟩, fun _ => hirqst⟩
  · exact ⟨fun hne => absurd hi (hne v), fun _ k hk => hirqst ▸ hk⟩
  · exact ⟨fun _ => ⟨fun k hk => herr ▸ hk, fun hne => absurd herr hne⟩,
      fun hne => absurd hi (hne v)⟩

end Sys2Proof.Machine
end

section
/-! PROOFS. The global registers `STATUS`, `CTRL` and the interrupt level (10_state.md R23, R25, R26):
what a field placed in a word reads back as, and what 32-bit accesses do at a register's offset. -/

namespace Sys2Proof.Machine

/-! ## Fields placed in a word (00_scope.md R1) -/

theorem getLsbD_place {n : Nat} (lo : Nat) (x : BitVec n) (k : Nat) :
    (place lo x).getLsbD k = (decide (k < 32) && !decide (k < lo) && x.getLsbD (k - lo)) := by
  rw [place, BitVec.getLsbD_shiftLeft, BitVec.getLsbD_setWidth]
  by_cases hk : k < 32
  · simp [hk, show k - lo < 32 by omega]
  · simp [hk]

/-- A field reads back as what was placed there. -/
theorem extractLsb'_place_self {n lo : Nat} (hfit : lo + n ≤ 32) (x : BitVec n) :
    (place lo x).extractLsb' lo n = x := by
  refine BitVec.eq_of_getLsbD_eq fun k hk => ?_
  simp [-BitVec.getLsbD_eq_getElem, getLsbD_place, hk, show lo + k < 32 by omega]

/-- A field elsewhere in the word leaves bits `p` to `p + m - 1` at 0. -/
theorem extractLsb'_place_disjoint {n lo p m : Nat} (hdisj : lo + n ≤ p ∨ p + m ≤ lo)
    (x : BitVec n) : (place lo x).extractLsb' p m = 0#m := by
  refine BitVec.eq_of_getLsbD_eq fun k hk => ?_
  rcases hdisj with hbelow | habove
  · simp [getLsbD_place, BitVec.getLsbD_of_ge x (p + k - lo) (by omega)]
  · simp [getLsbD_place, show p + k < lo by omega]

theorem getLsbD_place_disjoint {n lo k : Nat} (hdisj : lo + n ≤ k ∨ k < lo) (x : BitVec n) :
    (place lo x).getLsbD k = false := by
  rcases hdisj with hbelow | habove
  · simp [getLsbD_place, BitVec.getLsbD_of_ge x (k - lo) (by omega)]
  · simp [getLsbD_place, habove]

theorem getLsbD_placeBit {j : Nat} (hj : j < 32) (b : Bool) (k : Nat) :
    (placeBit j b).getLsbD k = (decide (k = j) && b) := by
  by_cases hk : k = j
  · subst hk
    simp [-BitVec.getLsbD_eq_getElem, placeBit, getLsbD_place, hj]
  · rw [placeBit, getLsbD_place_disjoint (by omega)]
    simp [hk]

theorem extractLsb'_placeBit_disjoint {j p m : Nat} (hdisj : j + 1 ≤ p ∨ p + m ≤ j) (b : Bool) :
    (placeBit j b).extractLsb' p m = 0#m :=
  extractLsb'_place_disjoint hdisj _

/-! ## Accesses at a register's offset -/

/-- A 32-bit read at a register's offset returns its value and changes nothing (20_memory.md R84). -/
theorem exec_regRead_regOffset (r : Reg) (s : State) :
    exec (.regRead (BitVec.ofNat 10 (regOffset r)) 4) s =
      .next { s with busData := some (readReg r s) } := by
  simp only [exec, execRegRead, accessedReg_regOffset]

/-- A 32-bit write at the offset of a register other than `CMD` writes it (20_memory.md R85). -/
theorem exec_regWrite_regOffset {r : Reg} (hr : r ≠ .cmd) (v : Word) (s : State) :
    exec (.regWrite (BitVec.ofNat 10 (regOffset r)) 4 v) s = .next (writeReg r v s) := by
  simp only [exec, execRegWrite, accessedReg_regOffset, if_neg hr]

/-! ## `STATUS` -/

/-- Settles O7: every field of the word is read out of its place, where all other fields are 0. -/
theorem statusShowsItsSources : Obligations.StatusShowsItsSources := by
  intro s
  refine ⟨s.statusWord, exec_regRead_regOffset .status s, ?_⟩
  have hstep : s.cmt.cstep.val % 8 = s.cmt.cstep.val := Nat.mod_eq_of_lt (by omega)
  simp [-BitVec.getLsbD_eq_getElem, State.statusWord, BitVec.extractLsb'_or, extractLsb'_place_self,
    extractLsb'_place_disjoint, extractLsb'_placeBit_disjoint, getLsbD_place_disjoint,
    getLsbD_placeBit, hstep]

/-! ## `CTRL` -/

theorem bits_modeOfBits : ∀ b : BitVec 2, (modeOfBits b).bits = b := by decide

/-- The reserved value 3 leaves PHCFG as it was (10_state.md R23). -/
theorem bits_phCfgWarl (b : BitVec 2) (old : PhCfg) :
    (phCfgWarl b old).bits = if b = 3 then old.bits else b := by
  revert b
  cases old <;> decide

/-- `CTRL` reads as its fields, with the reserved bits 0. -/
theorem Ctrl.toWord_fields (c : Ctrl) :
    c.toWord.extractLsb' 0 2 = c.mode.bits ∧ c.toWord.extractLsb' 2 2 = c.phcfg.bits ∧
    c.toWord.getLsbD 4 = c.dir ∧ c.toWord.getLsbD 5 = c.hall60 ∧ c.toWord.getLsbD 6 = c.buscomp ∧
    c.toWord.getLsbD 7 = false ∧ c.toWord.extractLsb' 8 8 = c.updrate ∧
    c.toWord.extractLsb' 16 16 = 0#16 := by
  simp [-BitVec.getLsbD_eq_getElem, Ctrl.toWord, BitVec.extractLsb'_or, extractLsb'_place_self,
    extractLsb'_place_disjoint, extractLsb'_placeBit_disjoint, getLsbD_place_disjoint,
    getLsbD_placeBit]

/-- Settles O8: the write replaces the fields, and the read assembles the word from them. -/
theorem ctrlWriteSetsFields : Obligations.CtrlWriteSetsFields := by
  intro v s
  exact ⟨s.ctrl.write v, exec_regWrite_regOffset (r := .ctrl) (by decide) v s, bits_modeOfBits _,
    bits_phCfgWarl _ _, rfl, rfl, rfl, rfl, _, exec_regRead_regOffset .ctrl _,
    Ctrl.toWord_fields _⟩

/-! ## The interrupt level -/

/-- Settles O52: the level is high when the AND of the two registers has a bit set. -/
theorem irqIsPendingAndEnabled : Obligations.IrqIsPendingAndEnabled := by
  intro s
  calc s.outputs.irq = true
      ↔ s.irqst &&& s.irqen ≠ 0#5 := by simp [State.outputs, State.irq]
    _ ↔ ∃ k, (s.irqst &&& s.irqen).getLsbD k = true := by simp [BitVec.zero_iff_eq_false]
    _ ↔ ∃ k < 5, s.irqst.getLsbD k = true ∧ s.irqen.getLsbD k = true := by
      simp only [BitVec.getLsbD_and, Bool.and_eq_true]
      exact ⟨fun ⟨k, hst, hen⟩ => ⟨k, BitVec.lt_of_getLsbD hst, hst, hen⟩,
        fun ⟨k, _, hbits⟩ => ⟨k, hbits⟩⟩

end Sys2Proof.Machine
end

section
/-! PROOFS. Host accesses to the register window (20_memory.md R80 to R88): which accesses reach a
register, and what reads and writes at its offset do. -/

namespace Sys2Proof.Machine

/-! ## Host addresses (20_memory.md R80) -/

/-- The base ends in ten 0 bits. -/
theorem mccoreBase_toNat : Config.mccoreBase.toNat = Config.windowIndex.toNat * 0x400 := by
  rw [Config.mccoreBase, BitVec.toNat_append, ← Nat.shiftLeft_add_eq_or_of_lt (0#10).isLt,
    Nat.shiftLeft_eq]
  simp

theorem windowIndex_append_toNat (o : BitVec 10) :
    (Config.windowIndex ++ o).toNat = Config.mccoreBase.toNat + o.toNat := by
  rw [mccoreBase_toNat, BitVec.toNat_append, ← Nat.shiftLeft_add_eq_or_of_lt o.isLt,
    Nat.shiftLeft_eq]

/-- An offset fills the 0 bits of the base, and its addition never carries. -/
theorem busAddress_eq_append (o : BitVec 10) : Config.busAddress o = Config.windowIndex ++ o := by
  have hlt := (Config.windowIndex ++ o).isLt
  rw [windowIndex_append_toNat] at hlt
  apply BitVec.eq_of_toNat_eq
  rw [windowIndex_append_toNat, Config.busAddress, BitVec.toNat_add, BitVec.toNat_setWidth]
  omega

/-- Settles O14: the address is the window index followed by the offset. -/
theorem windowAddressesMapBack : Obligations.WindowAddressesMapBack := by
  refine ⟨by rw [mccoreBase_toNat]; omega, fun o => ⟨?_, ?_⟩⟩
  · rw [busAddress_eq_append, windowIndex_append_toNat]
  · have hindex : field 10 22 (Config.windowIndex ++ o) = Config.windowIndex :=
      BitVec.extractLsb'_append_eq_left
    have hoffset : field 0 10 (Config.windowIndex ++ o) = o :=
      BitVec.extractLsb'_append_eq_right
    rw [busAddress_eq_append, windowOffset, if_pos hindex, hoffset]

/-! ## Bad accesses (10_state.md R49, 20_memory.md R82) -/

/-- Every word of the window is reserved or a register's: this compares the reserved ranges of R49 with
the offsets of the register tables. -/
theorem reserved_or_register : ∀ k < 0x100, reservedOffset (4 * k) ∨ 4 * k ∈ allRegs.map regOffset := by
  unfold reservedOffset
  decide +kernel

theorem not_reserved_regOffset (r : Reg) : ¬ reservedOffset (regOffset r) := by
  have h : ∀ r ∈ allRegs, ¬ reservedOffset (regOffset r) := by
    unfold reservedOffset
    decide +kernel
  exact h r (mem_allRegs r)

/-- The offsets of the window without a register are the misaligned and the reserved ones. -/
theorem regAt_eq_none_iff_bad {o : Nat} (ho : o < 0x400) :
    regAt o = none ↔ o % 4 ≠ 0 ∨ reservedOffset o := by
  rw [regAt_eq_none_iff]
  constructor
  · intro hno
    by_cases halign : o % 4 = 0
    · obtain ⟨k, rfl⟩ := Nat.dvd_of_mod_eq_zero halign
      exact .inr ((reserved_or_register k (by omega)).resolve_right hno)
    · exact .inl halign
  · intro hbad hmem
    obtain ⟨r, -, rfl⟩ := List.mem_map.1 hmem
    exact hbad.elim (absurd (regOffset_bound r).2) (not_reserved_regOffset r)

theorem accessedReg_eq_none {o : BitVec 10} {n : Nat}
    (hbad : o.toNat % 4 ≠ 0 ∨ n ≠ 4 ∨ reservedOffset o.toNat) : accessedReg o n = none := by
  unfold accessedReg
  split
  · next hn => exact (regAt_eq_none_iff_bad o.isLt).2 (hbad.imp_right (·.resolve_left (absurd hn)))
  · rfl

/-- Settles O5: a bad access reaches no register, and the answer is then `raise BUSERR`. -/
theorem badAccessRaisesBuserr : Obligations.BadAccessRaisesBuserr := by
  intro o n v s hbad
  have hnone := accessedReg_eq_none hbad
  constructor
  · simp only [exec, execRegRead, hnone]
    rfl
  · simp only [exec, execRegWrite, hnone]
    rfl

/-! ## Good reads (20_memory.md R84, R88) -/

/-- A good offset is some register's. -/
theorem exists_regOffset_eq {o : BitVec 10} (halign : o.toNat % 4 = 0)
    (hres : ¬ reservedOffset o.toNat) : ∃ r, regOffset r = o.toNat := by
  cases hr : regAt o.toNat with
  | some r => exact ⟨r, regOffset_of_regAt hr⟩
  | none => exact absurd ((regAt_eq_none_iff_bad o.isLt).1 hr) (by simp [halign, hres])

/-- The registers outside the tables whose read value is a field of the state, or fixed: all but `CTRL`
and `STATUS`, which are assembled of several fields. -/
def plainReadRegs : List Reg :=
  [.id, .err, .fault, .irqen, .irqst, .cmd, .arg] ++ piRegs ++ waveRegs ++ bemfRegs ++ speedRegs ++
    curRegs ++ monRegs

/-- Settles O6: a good offset is a register's, and a read there returns the value `readReg` gives. -/
theorem goodReadReturnsRegister : Obligations.GoodReadReturnsRegister := by
  refine ⟨fun o s halign hres => ?_, fun s p hp => ?_, fun s h => ⟨?_, ?_⟩, fun s j => ?_⟩
  · obtain ⟨r, hr⟩ := exists_regOffset_eq halign hres
    have ho : o = BitVec.ofNat 10 (regOffset r) := by rw [hr, BitVec.ofNat_toNat, BitVec.setWidth_eq]
    exact ⟨r, hr, ho ▸ exec_regRead_regOffset r s⟩
  · have hlist : p ∈ plainReadRegs.map fun r => (BitVec.ofNat 10 (regOffset r), readReg r s) := hp
    obtain ⟨r, -, rfl⟩ := List.mem_map.1 hlist
    exact exec_regRead_regOffset r s
  · exact exec_regRead_regOffset (.htab120 h) s
  · exact exec_regRead_regOffset (.htab60 h) s
  · exact exec_regRead_regOffset (.stab j) s

/-! ## Writes of read-only registers (20_memory.md R83) -/

/-- The read-only registers, in the order of their offsets. -/
def readOnlyRegs : List Reg :=
  [.id, .status, .fault, .pi 0 .integ, .pi 0 .imax, .pi 0 .out, .pi 1 .integ, .pi 1 .imax, .pi 1 .out,
   .adelta, .freq, .pcnt, .ampeff, .dutyA, .dutyB, .dutyC, .phmask, .hall, .cstep, .floatph, .skipcnt,
   .lastzc, .cmtdly, .mspeed, .lastedge, .spdsamp, .edgeage, .pkacc, .ipeak, .iavg, .irms, .power,
   .vbus, .temp, .stallcnt]

/-- On each of them a write takes the last case of `writeReg` or, in a PI bank, of `writePi`. -/
theorem writeReg_readOnly {r : Reg} (hr : r ∈ readOnlyRegs) (v : Word) (s : State) :
    writeReg r v s = s := by
  have hall : readOnlyRegs.map (writeReg · v s) = readOnlyRegs.map fun _ => s := rfl
  exact List.map_inj_left.1 hall r hr

/-- Settles O9: each offset is a read-only register's, whose write is no operation. -/
theorem readOnlyWritesIgnored : Obligations.ReadOnlyWritesIgnored := by
  intro v s o ho
  have hlist : o ∈ readOnlyRegs.map fun r => BitVec.ofNat 10 (regOffset r) := ho
  obtain ⟨r, hr, rfl⟩ := List.mem_map.1 hlist
  have hcmd : r ≠ .cmd := ne_of_mem_of_not_mem hr (by decide)
  rw [exec_regWrite_regOffset hcmd, writeReg_readOnly hr]

/-! ## Plain and write-1-to-clear registers (20_memory.md R85) -/

/-- The lowest bits of a word, as a field and as a narrower word. -/
theorem field_zero_eq_truncate (n : Nat) (v : Word) : field 0 n v = v.truncate n := by
  refine BitVec.eq_of_getLsbD_eq fun k hk => ?_
  rw [getLsbD_field, BitVec.getLsbD_setWidth, Nat.zero_add]

theorem getElem_set_fin {α : Type} {n : Nat} (xs : Vector α n) (h j : Fin n) (x : α) :
    (xs.set h.val x)[j.val] = if j = h then x else xs[j.val] := by
  simp only [Vector.getElem_set, Fin.ext_iff, eq_comm]

/-- Settles O10: each register's write is the record update that stores the word's low bits. -/
theorem plainWritesStore : Obligations.PlainWritesStore := by
  intro v s
  have plain (r : Reg) (hr : r ≠ .cmd := by decide) := exec_regWrite_regOffset hr v s
  simp only [← field_zero_eq_truncate 5, ← field_zero_eq_truncate 6, ← field_zero_eq_truncate 8,
    ← field_zero_eq_truncate 9, ← field_zero_eq_truncate 16]
  refine ⟨plain .irqen, plain .arg, plain (.pi 0 .kp), plain (.pi 0 .errin), plain (.pi 1 .kp),
    plain (.pi 1 .errin), plain .angle, plain .pwmfreq, plain .amp, plain .vnom, plain .vfloor,
    plain .ampcap, plain .skiprst, plain .latency, plain .pwmper, plain .avgper, plain .sysclk,
    plain .polepairs, plain .maxspeed, plain .spdtmo, plain .calgain, plain .calofs, plain .rmsk,
    plain .pwrscale, plain .tmax, plain .vmin, plain .vmax, plain .iminl, plain .imaxl,
    plain .minspeed, plain .stallth, fun h => ?_, fun h => ?_, fun h => ?_⟩
  · exact ⟨_, plain (.htab120 h) nofun, rfl, fun j => getElem_set_fin _ h j _⟩
  · exact ⟨_, plain (.htab60 h) nofun, rfl, fun j => getElem_set_fin _ h j _⟩
  · exact ⟨_, plain (.stab h) nofun, rfl, fun j => getElem_set_fin _ h j _⟩

theorem getLsbD_clear_field {n k : Nat} (hk : k < n) (x : BitVec n) (v : Word) :
    (x &&& ~~~(field 0 n v)).getLsbD k = (x.getLsbD k && !v.getLsbD k) := by
  simp only [BitVec.getLsbD_and, BitVec.getLsbD_not, getLsbD_field, hk, decide_true, Bool.true_and,
    Nat.zero_add]

/-- Settles O11: the register is masked with the complement of the written bits. -/
theorem w1cWritesClear : Obligations.W1cWritesClear := by
  intro v s
  constructor
  · exact ⟨_, exec_regWrite_regOffset (r := .err) (by decide) v s, rfl,
      fun k hk => getLsbD_clear_field hk s.err v⟩
  · exact ⟨_, exec_regWrite_regOffset (r := .irqst) (by decide) v s, rfl,
      fun k hk => getLsbD_clear_field hk s.irqst v⟩

end Sys2Proof.Machine
end

section
/-! PROOFS. Single writer (20_memory.md R96): what commands and events leave of the registers that the
host alone writes. -/

namespace Sys2Proof.Machine

/-! ## The host's registers -/

/-- The host-written registers of one PI controller (10_state.md R31). -/
structure PiHostView where
  kp : NonNeg
  ki : NonNeg
  outmax : NonNeg
  errin : Word

def PiRegs.hostView (p : PiRegs) : PiHostView :=
  { kp := p.kp, ki := p.ki, outmax := p.outmax, errin := p.errin }

/-- The registers that the host alone writes (20_memory.md R96). -/
structure HostView where
  ctrl : Ctrl
  irqen : BitVec 5
  arg : Word
  pi0 : PiHostView
  pi1 : PiHostView
  pwmfreq : Word
  amp : NonNeg
  vnom : NonNeg
  vfloor : NonNeg
  ampcap : NonNeg
  htab120 : Vector Mask 8
  htab60 : Vector Mask 8
  stab : Vector (BitVec 9) 12
  skiprst : BitVec 16
  latency : Word
  pwmper : Word
  sysclk : Word
  polepairs : BitVec 8
  maxspeed : Word
  spdtmo : BitVec 16
  calgain : NonNeg
  calofs : Word
  rmsk : NonNeg
  pwrscale : NonNeg
  tmax : Word
  vmin : NonNeg
  vmax : NonNeg
  iminl : NonNeg
  imaxl : NonNeg
  minspeed : Word
  stallth : BitVec 16

/-- What the host has written. -/
def State.hostView (s : State) : HostView :=
  { ctrl := s.ctrl, irqen := s.irqen, arg := s.arg, pi0 := s.pi0.hostView, pi1 := s.pi1.hostView
    pwmfreq := s.wave.pwmfreq, amp := s.wave.amp, vnom := s.wave.vnom, vfloor := s.wave.vfloor
    ampcap := s.wave.ampcap, htab120 := s.cmt.htab120, htab60 := s.cmt.htab60, stab := s.cmt.stab
    skiprst := s.zc.skiprst, latency := s.zc.latency, pwmper := s.zc.pwmper
    sysclk := s.spd.sysclk, polepairs := s.spd.polepairs, maxspeed := s.spd.maxspeed
    spdtmo := s.spd.spdtmo, calgain := s.cur.calgain, calofs := s.cur.calofs, rmsk := s.cur.rmsk
    pwrscale := s.cur.pwrscale, tmax := s.mon.tmax, vmin := s.mon.vmin, vmax := s.mon.vmax
    iminl := s.mon.iminl, imaxl := s.mon.imaxl, minspeed := s.mon.minspeed
    stallth := s.mon.stallth }

/-- `t` has the host-written registers of `s`. -/
def KeepsHost (s t : State) : Prop := t.hostView = s.hostView

theorem KeepsHost.refl (s : State) : KeepsHost s s := rfl

theorem KeepsHost.trans {s t u : State} (h : KeepsHost s t) (h' : KeepsHost t u) : KeepsHost s u :=
  Eq.trans h' h

/-! ## Shared operations -/

theorem KeepsHost.flag (e : ErrBit) (s : State) : KeepsHost s (s.flag e) := rfl

theorem KeepsHost.flagIf (b : Bool) (e : ErrBit) (s : State) : KeepsHost s (s.flagIf b e) := by
  rw [flagIf_eq]
  rfl

/-- The bank of a PI controller is replaced by one with the same host-written registers. -/
theorem KeepsHost.setPi (n : Fin 2) {p : PiRegs} {s : State} (hp : p.hostView = (s.pi n).hostView) :
    KeepsHost s (s.setPi n p) := by
  match n with
  | 0 => exact congrArg (fun q => { s.hostView with pi0 := q }) hp
  | 1 => exact congrArg (fun q => { s.hostView with pi1 := q }) hp

theorem windowClose_keepsHost (s : State) : KeepsHost s (windowClose s) := by
  rw [windowClose_frame]
  rfl

theorem setMask_keepsHost (m : Mask) (s : State) : KeepsHost s (setMask m s) := by
  unfold setMask
  split
  · exact .refl s
  · dsimp only
    split
    · exact windowClose_keepsHost _
    · rfl

theorem lookupFlags_keepsHost (m : Mask) (s : State) : KeepsHost s (lookupFlags m s) := by
  rw [lookupFlags_frame]
  rfl

theorem lookupHall_keepsHost (s : State) : KeepsHost s (lookupHall s) :=
  (lookupFlags_keepsHost _ s).trans (setMask_keepsHost _ _)

theorem applyStep_keepsHost (s : State) : KeepsHost s (applyStep s) :=
  (lookupFlags_keepsHost _
    { s with cmt := { s.cmt with floatph := entryFlt (stabEntry s.ctrl.dir s.cmt) } }).trans
    (setMask_keepsHost _ _)

theorem enterStep_keepsHost (k : Fin 6) (s : State) : KeepsHost s (enterStep k s) := by
  unfold enterStep
  dsimp only
  split
  · exact applyStep_keepsHost { s with cmt := { s.cmt with cstep := k } }
  · rfl

theorem speedEdge_keepsHost (ts : Word) (s : State) : KeepsHost s (speedEdge ts s) := by
  rw [speedEdge_frame, speedEdgeRegs_frame]
  rfl

theorem speedAge_keepsHost (s : State) : KeepsHost s (speedAge s) := by
  unfold speedAge speedAgeRegs
  dsimp only
  split <;> rfl

theorem zcDetect_keepsHost (ts : Word) (s : State) : KeepsHost s (zcDetect ts s) := by
  unfold zcDetect
  dsimp only
  split
  · exact speedEdge_keepsHost ts _
  · rfl

theorem bemfSample_keepsHost (vbemf : NonNeg) (ts : Word) (s : State) :
    KeepsHost s (bemfSample vbemf ts s) := by
  rcases bemfSample_cases vbemf ts s with heq | ⟨_, _, heq⟩ | ⟨_, _, heq⟩ <;> rw [heq]
  · exact .refl s
  · rfl
  · exact zcDetect_keepsHost ts s

theorem waveUpdate_keepsHost (n : Nat) (s : State) : KeepsHost s (waveUpdate n s) := by
  unfold waveUpdate
  dsimp only
  split
  · exact windowClose_keepsHost { s with wave := waveRegsUpdate n s }
  · rfl

theorem takeFault_keepsHost (held : BitVec 8) (s : State) : KeepsHost s (takeFault held s) := rfl

/-! ## Commands and events -/

theorem execAngSetfreq_keepsHost (s : State) : Ensures (KeepsHost s) (execAngSetfreq s) := by
  refine ensures_next.2 ?_
  split <;> rfl

theorem execEvPwm_keepsHost (c : Word) (s : State) : Ensures (KeepsHost s) (execEvPwm c s) := by
  unfold execEvPwm
  split
  · exact ensures_refused
  · dsimp only
    split
    · exact ensures_next.2
        (waveUpdate_keepsHost _ { s with pend.pwm := 0, wave.pcnt := BitVec.ofNat 32 _ })
    · exact ensures_next.2 rfl

theorem execEvAdc_keepsHost (ic : BitVec 16) (vbemf vb tp ts : Word) (s : State) :
    Ensures (KeepsHost s) (execEvAdc ic vbemf vb tp ts s) := by
  refine ensures_next.2 ?_
  split
  · exact bemfSample_keepsHost _ _ { s with cur := adcLatch ic vb tp s.cur }
  · rfl

theorem execEvHall_keepsHost (e : BitVec 3) (ts : Word) (s : State) :
    Ensures (KeepsHost s) (execEvHall e ts s) := by
  have hlookup : KeepsHost s (if s.ctrl.mode = .trapHall
      then lookupHall { s with cmt := { s.cmt with hall := e } }
      else { s with cmt := { s.cmt with hall := e } }) := by
    split
    · exact lookupHall_keepsHost { s with cmt := { s.cmt with hall := e } }
    · rfl
  refine ensures_next.2 ?_
  split
  · exact hlookup.trans (speedEdge_keepsHost _ _)
  · exact hlookup

theorem execEvTick_keepsHost (s : State) : Ensures (KeepsHost s) (execEvTick s) := by
  refine ensures_next.2 ?_
  split
  · exact speedAge_keepsHost s
  · exact speedAge_keepsHost s

/-- Commands and events write no register that the host alone writes. -/
theorem exec_keepsHost_of_not_access {i : Instr} (hi : i.format ≠ .access) (s : State) :
    Ensures (KeepsHost s) (exec i s) := by
  cases i with
  | piStep n =>
    have hbank (k : Fin 2) : KeepsHost s (s.setPi k (piStepRegs (s.pi k))) := .setPi k rfl
    exact execPiStep_ensures n (fun k => (hbank k).trans (.flagIf _ _ _)) (.flag _ _)
  | piReset n => exact execPiReset_ensures n (fun _ => .setPi _ rfl) (.flag _ _)
  | piSeed n => exact execPiSeed_ensures n (fun _ => .setPi _ rfl) (.flag _ _)
  | angSetfreq => exact execAngSetfreq_keepsHost s
  | waveUpdate => exact ensures_next.2 (waveUpdate_keepsHost 0 s)
  | cmtHall =>
    refine ensures_next.2 ?_
    split
    · exact lookupHall_keepsHost s
    · exact .refl s
  | cmtStepset k => exact execCmtStepset_ensures k (enterStep_keepsHost · s) (.flag _ _)
  | cmtStepadv => exact ensures_next.2 (enterStep_keepsHost _ s)
  | evPwm c => exact execEvPwm_keepsHost c s
  | evAdc ic vbemf vb tp ts => exact execEvAdc_keepsHost ic vbemf vb tp ts s
  | evHall e ts => exact execEvHall_keepsHost e ts s
  | evCmt =>
    refine ensures_next.2 ?_
    split
    · exact enterStep_keepsHost _ s
    · exact .refl s
  | evTick => exact execEvTick_keepsHost s
  | outOn | runEnter | runExit =>
    refine ensures_next.2 ?_
    split <;> rfl
  | nop | angReset | zcReset | spdReset | curReset | faultClear | estop | outOff | evWdog
  | evAdcerr => exact ensures_next.2 rfl
  | regRead | regWrite => exact absurd rfl hi

/-- Settles O13: the view has every register of R96's list, and commands and events keep the view. -/
theorem operationsKeepHostRegisters : Obligations.OperationsKeepHostRegisters := by
  intro i s t hi hexec
  have hview : t.hostView = s.hostView := exec_keepsHost_of_not_access hi s t hexec
  simpa only [State.hostView, PiRegs.hostView, HostView.mk.injEq, PiHostView.mk.injEq,
    Fin.forall_fin_two, pi_zero, pi_one, and_assoc] using hview

end Sys2Proof.Machine
end

section
/-! PROOFS. Steps (20_memory.md R90, R91): which pending operation the arbiter takes, what an arrival at
an idle block leaves pending, and the operation that a step then performs. -/

namespace Sys2Proof.Machine

variable {s t u : State} {i : Instr} {p : Pending}

/-! ## The order of the latches (20_memory.md R91) -/

theorem selectEvent_pwm (hpwm : p.pwm ≠ 0) :
    selectEvent p = some (.evPwm p.pwm, { p with pwm := 0 }) := by
  have hpick : pickPwm p = some (.evPwm p.pwm, { p with pwm := 0 }) := if_neg hpwm
  rw [selectEvent, hpick]
  rfl

theorem selectEvent_adc {b : AdcBatch} (hpwm : p.pwm = 0) (hadc : p.adc = some b)
    (herr : p.adcErr = false ∨ p.adcErrFirst = false) :
    selectEvent p =
      some (.evAdc b.ic b.vbemf b.vb b.tp b.ts, { p with adc := none, adcErrFirst := false }) := by
  rcases herr with herr | herr <;> simp [selectEvent, pickPwm, pickAdc, hpwm, hadc, herr]

theorem selectEvent_adcerr (hpwm : p.pwm = 0) (herr : p.adcErr = true)
    (hadc : p.adc = none ∨ p.adcErrFirst = true) :
    selectEvent p = some (.evAdcerr, { p with adcErr := false, adcErrFirst := false }) := by
  rcases hadc with hadc | hfirst
  · simp [selectEvent, pickPwm, pickAdc, hpwm, herr, hadc]
  · cases hadc : p.adc <;> simp [selectEvent, pickPwm, pickAdc, hpwm, herr, hadc, hfirst]

section NoPwmNoAdc

variable (hpwm : p.pwm = 0) (hadc : p.adc = none) (herr : p.adcErr = false)
include hpwm hadc herr

/-- With no PWM period and nothing of the ADC pending, the other latches are next. -/
theorem selectEvent_of_no_adc :
    selectEvent p = (pickHall p <|> pickCmt p <|> pickTick p <|> pickWdog p) := by
  simp [selectEvent, pickPwm, pickAdc, hpwm, hadc, herr]

theorem selectEvent_hall {e : HallEdge} (hhall : p.hall = some e) :
    selectEvent p = some (.evHall e.h e.ts, { p with hall := none }) := by
  simp [selectEvent_of_no_adc hpwm hadc herr, pickHall, hhall]

theorem selectEvent_cmt (hhall : p.hall = none) (hcmt : p.cmt = true) :
    selectEvent p = some (.evCmt, { p with cmt := false }) := by
  simp [selectEvent_of_no_adc hpwm hadc herr, pickHall, pickCmt, hhall, hcmt]

theorem selectEvent_tick (hhall : p.hall = none) (hcmt : p.cmt = false) (htick : p.tick = true) :
    selectEvent p = some (.evTick, { p with tick := false }) := by
  simp [selectEvent_of_no_adc hpwm hadc herr, pickHall, pickCmt, pickTick, hhall, hcmt, htick]

theorem selectEvent_wdog (hhall : p.hall = none) (hcmt : p.cmt = false) (htick : p.tick = false)
    (hwdog : p.wdog = true) : selectEvent p = some (.evWdog, { p with wdog := false }) := by
  simp [selectEvent_of_no_adc hpwm hadc herr, pickHall, pickCmt, pickTick, pickWdog, hhall, hcmt,
    htick, hwdog]

theorem selectEvent_none (hhall : p.hall = none) (hcmt : p.cmt = false) (htick : p.tick = false)
    (hwdog : p.wdog = false) : selectEvent p = none := by
  simp [selectEvent_of_no_adc hpwm hadc herr, pickHall, pickCmt, pickTick, pickWdog, hhall, hcmt,
    htick, hwdog]

end NoPwmNoAdc

/-! ## Events before host accesses (20_memory.md R91) -/

theorem select_of_event (h : selectEvent s.pend = some (i, p)) :
    select s = some (i, { s with pend := p }) := by
  simp only [select, h]

theorem select_of_access {a : Access} {q : List Access} (h : selectEvent s.pend = none)
    (hq : s.hostq = a :: q) : select s = some (a.toInstr, { s with hostq := q }) := by
  simp only [select, h, hq]

theorem select_of_idle (h : selectEvent s.pend = none) (hq : s.hostq = []) : select s = none := by
  simp only [select, h, hq]

/-! ## The operation of a step -/

/-- A step performs the operation selected after the arrivals. -/
theorem step_eq_exec (harrive : arriveAll (s.inputs.headD []) (stepped s) = .ok u)
    (hreset : u.inReset = false) (hsel : select u = some (i, t)) : step s = exec i t := by
  have hbegin : beginStep s = stepped s := rfl
  simp only [step, hbegin, harrive, perform, hreset, hsel, Bool.false_eq_true, if_false]

/-- A step with nothing selected after the arrivals waits. -/
theorem step_eq_next (harrive : arriveAll (s.inputs.headD []) (stepped s) = .ok u)
    (hreset : u.inReset = false) (hsel : select u = none) : step s = .next u := by
  have hbegin : beginStep s = stepped s := rfl
  simp only [step, hbegin, harrive, perform, hreset, hsel, Bool.false_eq_true, if_false]

/-- Settles O54: with no arrival the step performs what the arbiter selects from the latches each clause
names. -/
theorem arbiterFollowsPriority : Obligations.ArbiterFollowsPriority := by
  intro s hreset hinputs
  have harrive : arriveAll (s.inputs.headD []) (stepped s) = .ok (stepped s) := by
    rw [hinputs]
    rfl
  have event {i : Instr} {p : Pending} (h : selectEvent s.pend = some (i, p)) :
      step s = exec i { stepped s with pend := p } :=
    step_eq_exec harrive hreset (select_of_event (s := stepped s) h)
  refine ⟨fun hpwm => event (selectEvent_pwm hpwm), fun hpwm =>
    ⟨fun b hadc herr => event (selectEvent_adc hpwm hadc herr),
      fun herr hadc => event (selectEvent_adcerr hpwm herr hadc), fun hadc herr =>
    ⟨fun e hhall => event (selectEvent_hall hpwm hadc herr hhall), fun hhall =>
    ⟨fun hcmt => event (selectEvent_cmt hpwm hadc herr hhall hcmt), fun hcmt =>
    ⟨fun htick => event (selectEvent_tick hpwm hadc herr hhall hcmt htick), fun htick =>
    ⟨fun hwdog => event (selectEvent_wdog hpwm hadc herr hhall hcmt htick hwdog),
      fun hwdog => ?_⟩⟩⟩⟩⟩⟩
  have hnone : selectEvent (stepped s).pend = none :=
    selectEvent_none hpwm hadc herr hhall hcmt htick hwdog
  exact ⟨fun a q hq => step_eq_exec harrive hreset (select_of_access hnone hq),
    fun hq => step_eq_next harrive hreset (select_of_idle hnone hq)⟩

/-! ## Words that spell an operation (30_encoding.md section 1) -/

theorem decodeWhole_eq_some {f : Format} {ws : List Word} (h : decode f ws = .ok (i, [])) :
    decodeWhole f ws = some i := by
  rw [decodeWhole, h]

/-- The event port carries events only. -/
theorem format_of_decodeEvent {ws rest : List Word} (h : decodeEvent ws = .ok (i, rest)) :
    i.format = .event := by
  unfold decodeEvent at h
  split at h
  · cases h
  · split at h
    case h_2 => cases h; rfl
    case h_8 => cases h
    all_goals
      split at h
      · cases h; rfl
      · cases h

/-! ## Arrivals -/

theorem arriveAll_singleton {x : Input} (h : arrive x s = .ok t) : arriveAll [x] s = .ok t := by
  rw [arriveAll, h]
  rfl

/-- An access goes behind the accesses that wait (20_memory.md R90). -/
theorem arrive_bus {ws : List Word} {w : Bool} {o : BitVec 10} {v : Word} (n : Nat)
    (hreset : s.inReset = false)
    (hdec : decode .access ws = .ok (if w then .regWrite o 4 v else .regRead o 4, [])) :
    arrive (.bus ws n) s = .ok { s with
      hostq := s.hostq ++ [{ write := w, offset := o, size := n, data := if w then v else 0 }] } := by
  cases w <;> simp [arrive, arriveBus, busCycle, hreset, decodeWhole_eq_some hdec]

theorem arrive_event {ws : List Word} (hreset : s.inReset = false)
    (hdec : decode .event ws = .ok (i, [])) (hlatch : latchEvent i s = some t) :
    arrive (.event ws) s = .ok t := by
  simp [arrive, arriveEvent, hreset, decodeWhole_eq_some hdec, hlatch]

/-- The first PWM period after an `EV_PWM` sets the count to the record's own (log 2). -/
theorem arrivePwm_of_zero {c : Word} (hc : c ≠ 0) (hpwm : s.pend.pwm = 0) :
    arrivePwm c s = { s with pend.pwm := c } := by
  have hcount : (arrivePwm c s).pend.pwm = c := by
    have hzero : s.pend.pwm.toNat = 0 := by rw [hpwm]; rfl
    have hlt := c.isLt
    have hne : c.toNat ≠ 0 := fun h => hc (BitVec.eq_of_toNat_eq h)
    apply BitVec.eq_of_toNat_eq
    rw [arrivePwm_pwm_toNat, hzero]
    omega
  rw [arrivePwm_flags_full, hcount, hpwm]
  rfl

/-- An event that arrives at empty latches is what the arbiter selects, and the latches are then empty
again. -/
theorem latchEvent_of_empty (hs : s.pend = Pending.empty) (hi : i.format = .event)
    (hwf : i.wellFormed = true) :
    ∃ p, latchEvent i s = some { s with pend := p } ∧ selectEvent p = some (i, Pending.empty) := by
  cases i with
  | evPwm c =>
    have hc : c ≠ 0 := by simpa [Instr.wellFormed] using hwf
    refine ⟨{ Pending.empty with pwm := c }, ?_, selectEvent_pwm hc⟩
    rw [latchEvent, if_neg hc, arrivePwm_of_zero hc (by rw [hs]; rfl), hs]
  | evAdc ic vbemf vb tp ts =>
    exact ⟨{ Pending.empty with adc := some ⟨ic, vbemf, vb, tp, ts⟩ },
      by simp [latchEvent, arriveAdc, hs, Pending.empty], rfl⟩
  | evHall e ts =>
    exact ⟨{ Pending.empty with hall := some ⟨e, ts⟩ },
      by simp [latchEvent, arriveHall, hs, Pending.empty], rfl⟩
  | evCmt =>
    exact ⟨{ Pending.empty with cmt := true },
      by simp [latchEvent, arriveCmt, hs, Pending.empty], rfl⟩
  | evTick =>
    exact ⟨{ Pending.empty with tick := true },
      by simp [latchEvent, arriveTick, hs, Pending.empty], rfl⟩
  | evWdog =>
    exact ⟨{ Pending.empty with wdog := true },
      by simp [latchEvent, arriveWdog, hs, Pending.empty], rfl⟩
  | evAdcerr =>
    exact ⟨{ Pending.empty with adcErr := true },
      by simp [latchEvent, arriveAdcerr, hs, Pending.empty], rfl⟩
  | _ => exact nomatch hi

/-- A step whose batch is one event performs it, where nothing else is pending. -/
theorem step_of_event {ws : List Word} (hreset : s.inReset = false) (hs : s.pend = Pending.empty)
    (hinputs : s.inputs.headD [] = [.event ws]) (hdec : decode .event ws = .ok (i, []))
    (hwf : i.wellFormed = true) : step s = exec i (stepped s) := by
  obtain ⟨p, hlatch, hsel⟩ :=
    latchEvent_of_empty (s := stepped s) hs (format_of_decodeEvent hdec) hwf
  refine step_eq_exec (u := { stepped s with pend := p }) ?_ hreset ?_
  · rw [hinputs]
    exact arriveAll_singleton (arrive_event hreset hdec hlatch)
  · rw [select_of_event (p := Pending.empty) hsel, ← hs]
    rfl

/-- Settles O53: the arrival leaves the access at the end of the queue, or the event in its latch, and
the arbiter takes the oldest access, or the event. -/
theorem stepPerformsDecodedOperation : Obligations.StepPerformsDecodedOperation := by
  refine ⟨fun s ws w o v n hreset hdec => ⟨arrive_bus n hreset hdec, fun hs hinputs => ?_⟩,
    fun s ws i hreset hs hinputs hdec hwf => step_of_event hreset hs hinputs hdec hwf⟩
  have harrive := arriveAll_singleton (arrive_bus (s := stepped s) n hreset hdec)
  rw [← hinputs] at harrive
  have hnone : selectEvent (stepped s).pend = none := by
    rw [show (stepped s).pend = Pending.empty from hs]
    rfl
  constructor
  · intro hq
    have hempty : (stepped s).hostq = [] := hq
    have hback : { stepped s with hostq := [] } = stepped s := by rw [← hempty]
    rw [hempty] at harrive
    have hstep := step_eq_exec harrive hreset (select_of_access hnone rfl)
    rw [hstep, hback]
    cases w <;> rfl
  · intro b q hq
    have hqueue : (stepped s).hostq = b :: q := hq
    rw [hqueue] at harrive
    exact step_eq_exec harrive hreset (select_of_access hnone rfl)

end Sys2Proof.Machine
end

section
/-! PROOFS. The words of the ports (30_encoding.md): which command words and event headers the decoders
accept, and what a word written to `CMD` or a malformed record does. -/

namespace Sys2Proof.Machine

/-- Settles O3: each decoder runs on the closed word and answers with the operation of its table row. -/
theorem specWordsDecode : Obligations.SpecWordsDecode := by
  refine ⟨?_, ?_, ?_, ?_, ?_, ?_⟩ <;> decide

/-! ## Legal command words (30_encoding.md R100 to R103) -/

theorem toNat_commandWord (op : BitVec 8) (idx : BitVec 4) :
    (commandWord op idx).toNat = 256 * idx.toNat + op.toNat := by
  have hop : (commandWord op idx).toNat = (0#20 ++ idx).toNat <<< 8 ||| op.toNat :=
    BitVec.toNat_append _ _
  have hidx : (0#20 ++ idx).toNat = idx.toNat := by
    rw [BitVec.toNat_append]
    simp
  rw [hop, hidx, ← Nat.shiftLeft_add_eq_or_of_lt op.isLt, Nat.shiftLeft_eq]
  omega

theorem toNat_field (lo n : Nat) (w : Word) :
    (field lo n w).toNat = w.toNat / 2 ^ lo % 2 ^ n := by
  rw [field, BitVec.extractLsb'_toNat, Nat.shiftRight_eq_div_pow]

theorem field_eq_zero_iff (lo n : Nat) (w : Word) :
    field lo n w = 0 ↔ w.toNat / 2 ^ lo % 2 ^ n = 0 := by
  rw [← toNat_field, ← BitVec.toNat_inj]
  rfl

/-- The bits of `RSV` are those from 2^12 up. -/
theorem field_rsv_eq_zero {w : Word} (h : w.toNat / 4096 = 0) : field 12 20 w = 0 := by
  rw [field_eq_zero_iff]
  omega

/-- R101's set in terms of the fields OP and IDX. -/
theorem legalCommandWord_commandWord_iff (op : BitVec 8) (idx : BitVec 4) :
    legalCommandWord (commandWord op idx) ↔
      (op.toNat ∈ [0x00, 0x10, 0x11, 0x12, 0x20, 0x22, 0x23, 0x30, 0x31, 0x40, 0x41, 0x42, 0x43,
        0x44, 0x45] ∧ idx.toNat = 0) ∨
      (op.toNat ∈ [0x01, 0x02, 0x03] ∧ idx.toNat < 2) ∨ (op.toNat = 0x21 ∧ idx.toNat < 6) := by
  have hop := op.isLt
  have hidx := idx.isLt
  have hrsv : (commandWord op idx).toNat / 4096 = 0 := by rw [toNat_commandWord]; omega
  have hmod : (commandWord op idx).toNat % 256 = op.toNat := by rw [toNat_commandWord]; omega
  have hdiv : (commandWord op idx).toNat / 256 = idx.toNat := by rw [toNat_commandWord]; omega
  rw [legalCommandWord, hrsv, hmod, hdiv]
  exact and_iff_right rfl

/-- The commands without an operand, in the order of their OP. -/
def plainCommands : List Instr :=
  [.nop, .angReset, .angSetfreq, .waveUpdate, .cmtHall, .cmtStepadv, .zcReset, .spdReset, .curReset,
   .faultClear, .estop, .outOn, .outOff, .runEnter, .runExit]

/-- The field OP of an operation's first word. -/
def opOf (i : Instr) : BitVec 8 := field 0 8 ((encode i).headD 0)

theorem plainCommands_encode : ∀ i ∈ plainCommands,
    i.format = .command ∧ i.wellFormed = true ∧ encode i = [commandWord (opOf i) 0] := by decide

/-- Every legal word is some legal command's. -/
theorem exists_command_of_legal {w : Word} (h : legalCommandWord w) :
    ∃ i : Instr, i.format = .command ∧ i.wellFormed = true ∧ encode i = [w] := by
  obtain ⟨op, idx, rfl⟩ : ∃ op idx, w = commandWord op idx :=
    ⟨_, _, (commandWord_of_fields (field_rsv_eq_zero h.1)).symm⟩
  rcases (legalCommandWord_commandWord_iff op idx).1 h with
    ⟨hop, hidx⟩ | ⟨hop, hidx⟩ | ⟨hop, hidx⟩
  · have hlist : op.toNat ∈ plainCommands.map fun i => (opOf i).toNat := hop
    obtain ⟨i, hi, heq⟩ := List.mem_map.1 hlist
    obtain rfl : opOf i = op := BitVec.eq_of_toNat_eq heq
    obtain rfl : idx = 0 := BitVec.eq_of_toNat_eq hidx
    exact ⟨i, plainCommands_encode i hi⟩
  · have hwf : piIdxLegal idx = true := decide_eq_true hidx
    have hlist : op.toNat ∈ [0x01#8, 0x02#8, 0x03#8].map BitVec.toNat := hop
    have hmem : op ∈ [0x01#8, 0x02#8, 0x03#8] :=
      (List.mem_map_of_injective BitVec.toNat_injective).1 hlist
    simp only [List.mem_cons, List.not_mem_nil, or_false] at hmem
    obtain rfl | rfl | rfl := hmem
    · exact ⟨.piStep idx, rfl, hwf, rfl⟩
    · exact ⟨.piReset idx, rfl, hwf, rfl⟩
    · exact ⟨.piSeed idx, rfl, hwf, rfl⟩
  · obtain rfl : op = 0x21#8 := BitVec.eq_of_toNat_eq hop
    exact ⟨.cmtStepset idx, rfl, decide_eq_true hidx, rfl⟩

/-- The word of a legal command is legal. -/
theorem legal_of_command {i : Instr} {w : Word} (hi : i.format = .command)
    (hwf : i.wellFormed = true) (hw : encode i = [w]) : legalCommandWord w := by
  cases i with
  | evPwm | evAdc | evHall | evCmt | evTick | evWdog | evAdcerr | regRead | regWrite => exact nomatch hi
  | piStep n | piReset n | piSeed n =>
    cases hw
    exact (legalCommandWord_commandWord_iff _ n).2 (.inr (.inl ⟨by decide, of_decide_eq_true hwf⟩))
  | cmtStepset k =>
    cases hw
    exact (legalCommandWord_commandWord_iff _ k).2 (.inr (.inr ⟨rfl, of_decide_eq_true hwf⟩))
  | _ =>
    cases hw
    exact (legalCommandWord_commandWord_iff _ 0).2 (.inl (by decide))

/-! ## Decoding of command words (30_encoding.md R100 to R103) -/

/-- The decoder reads a command back from its word, whether its IDX is legal or not (log 7). -/
theorem decodeCommand_encode {i : Instr} (hi : i.format = .command) :
    decodeCommand ((encode i).headD 0) = .ok i := by
  cases i with
  | evPwm | evAdc | evHall | evCmt | evTick | evWdog | evAdcerr | regRead | regWrite => exact nomatch hi
  | piStep | piReset | piSeed | cmtStepset => simp [encode, decodeCommand]
  | _ => rfl

/-- A command without an operand is accepted with IDX 0 only (30_encoding.md R102). -/
theorem encode_of_plainCommand {w : Word} {i j : Instr} (hrsv : field 12 20 w = 0)
    (hj : j ∈ plainCommands) (hop : (field 0 8 w).toNat = (opOf j).toNat)
    (h : plainCommand (field 8 4 w) j = .ok i) : i.format = .command ∧ encode i = [w] := by
  unfold plainCommand at h
  split at h
  · next hidx =>
    cases h
    obtain ⟨hi, -, henc⟩ := plainCommands_encode _ hj
    refine ⟨hi, ?_⟩
    rw [henc, ← BitVec.eq_of_toNat_eq hop, ← hidx, commandWord_of_fields hrsv]
  · cases h

/-- What the decoder accepts is a command, and the word is that command's: no bit of it is stray. -/
theorem command_of_decodeCommand {w : Word} {i : Instr} (h : decodeCommand w = .ok i) :
    i.format = .command ∧ encode i = [w] := by
  unfold decodeCommand at h
  split at h
  next hrsv =>
    have hword {op : BitVec 8} (hop : (field 0 8 w).toNat = op.toNat) :
        [commandWord op (field 8 4 w)] = [w] := by
      rw [← BitVec.eq_of_toNat_eq hop, commandWord_of_fields hrsv]
    split at h
    case h_2 hop | h_3 hop | h_4 hop | h_9 hop => cases h; exact ⟨rfl, hword hop⟩
    case h_20 => cases h
    all_goals exact encode_of_plainCommand hrsv (by decide) ‹_› h
  · cases h

/-! ## Words written to `CMD` (30_encoding.md R101, R106) -/

theorem exec_regWrite_cmd (w : Word) (s : State) : exec (.regWrite 0x01C 4 w) s = execute w s := by
  have hcmd : accessedReg 0x01C 4 = some .cmd := accessedReg_regOffset .cmd
  simp only [exec, execRegWrite, hcmd, if_true]

/-- A command with an IDX outside its range does nothing but `raise BADCMD` (41_pi.md R140). -/
theorem exec_of_not_wellFormed {i : Instr} (hi : i.format = .command) (hwf : i.wellFormed = false)
    (s : State) : exec i s = .next (withErr 0x20 s) := by
  cases i with
  | evPwm | evAdc | evHall | evCmt | evTick | evWdog | evAdcerr | regRead | regWrite => exact nomatch hi
  | piStep n | piReset n | piSeed n =>
    have hnone : piSelect n = none := dif_neg (of_decide_eq_false hwf)
    simp only [exec, execPiStep, execPiReset, execPiSeed, hnone]
    rfl
  | cmtStepset k => exact dif_neg (of_decide_eq_false hwf)
  | _ => exact nomatch hwf

/-- Settles O15: a word outside R101's set is no command's, or that of a command with an illegal IDX. -/
theorem illegalCommandRaisesBadcmd : Obligations.IllegalCommandRaisesBadcmd := by
  refine ⟨fun w s hw => ?_, fun n s hn => ?_⟩
  · rw [exec_regWrite_cmd, execute]
    split
    · next i hdec =>
      obtain ⟨hi, henc⟩ := command_of_decodeCommand hdec
      have hwf : i.wellFormed = false :=
        Bool.eq_false_iff.2 fun hwf => hw (legal_of_command hi hwf henc)
      rw [runCommand_eq_exec hi, exec_of_not_wellFormed hi hwf]
    · rfl
  · have hwf : piIdxLegal n = false := decide_eq_false (Nat.not_lt.2 hn)
    exact ⟨exec_of_not_wellFormed (i := .piStep n) rfl hwf s,
      exec_of_not_wellFormed (i := .piReset n) rfl hwf s,
      exec_of_not_wellFormed (i := .piSeed n) rfl hwf s⟩

/-- Settles O16: the decoder reads the command back from the word written. -/
theorem commandWritePerformsCommand : Obligations.CommandWritePerformsCommand := by
  refine ⟨fun i s hi _ => ?_, fun w => exists_command_of_legal⟩
  calc exec (lineCmd i) s
      = execute ((encode i).headD 0) s := exec_regWrite_cmd _ s
    _ = runCommand i s := by rw [execute, decodeCommand_encode hi]
    _ = exec i s := runCommand_eq_exec hi s

/-! ## Event records (30_encoding.md R104, R105) -/

/-- A header whose lower half is below 256 holds CODE there and no reserved bit. -/
theorem fields_of_low_half {h : Word} {c : Nat} (hc : c < 256) (hlow : (field 0 16 h).toNat = c) :
    field 8 8 h = 0 ∧ field 0 8 h = BitVec.ofNat 8 c := by
  rw [toNat_field] at hlow
  constructor
  · rw [field_eq_zero_iff]
    omega
  · apply BitVec.eq_of_toNat_eq
    rw [toNat_field, BitVec.toNat_ofNat]
    omega

theorem field_19_of_high_half {h : Word} (hhigh : field 16 16 h = 0) : field 19 13 h = 0 := by
  rw [field_eq_zero_iff] at hhigh ⊢
  omega

/-- A header has no nonzero bit outside the fields of its CODE (30_encoding.md R105). -/
structure CleanHeader (h : Word) : Prop where
  reserved : field 8 8 h = 0
  hall : field 0 8 h ≠ 0xE1#8 → field 19 13 h = 0
  plain : field 0 8 h ≠ 0xE1#8 → field 0 8 h ≠ 0xE2#8 → field 16 16 h = 0

theorem CleanHeader.of_high_half {h : Word} {c : Nat} (hc : c < 256)
    (hlow : (field 0 16 h).toNat = c) (hhigh : field 16 16 h = 0) : CleanHeader h :=
  ⟨(fields_of_low_half hc hlow).1, fun _ => field_19_of_high_half hhigh, fun _ _ => hhigh⟩

/-- The decoder accepts no record with a stray header bit. -/
theorem cleanHeader_of_decodeEvent {h : Word} {payload : List Word} {r : Instr × List Word}
    (hdec : decodeEvent (h :: payload) = .ok r) : CleanHeader h := by
  simp only [decodeEvent] at hdec
  split at hdec
  case h_2 hlow =>
    obtain ⟨hres, hcode⟩ := fields_of_low_half (by decide) hlow
    exact ⟨hres, absurd hcode, absurd hcode⟩
  case h_3 hlow =>
    obtain ⟨hres, hcode⟩ := fields_of_low_half (by decide) hlow
    split at hdec
    · next hhall => exact ⟨hres, fun _ => hhall, fun _ hne => absurd hcode hne⟩
    · cases hdec
  case h_8 => cases hdec
  all_goals
    split at hdec
    · next hlow hhigh => exact .of_high_half (by decide) hlow hhigh
    · cases hdec

theorem exec_evPwm_zero (s : State) : exec (.evPwm 0) s = .refused .malformedEvent := by
  rw [exec, execEvPwm, if_pos rfl]

/-- A record that spells no event with a latch is refused when it arrives. -/
theorem arrive_event_refused {record : List Word} {s : State} (hreset : s.inReset = false)
    (hno : ∀ i, decodeWhole .event record = some i → latchEvent i s = none) :
    arrive (.event record) s = .error .malformedEvent := by
  have hnone : (decodeWhole .event record).bind (latchEvent · s) = none :=
    Option.bind_eq_none_iff.2 hno
  simp [arrive, arriveEvent, hreset, hnone]

theorem step_eq_refused {x : Input} {s : State} {r : Refusal} (hinputs : s.inputs.headD [] = [x])
    (harrive : arrive x (stepped s) = .error r) : step s = .refused r := by
  have hbegin : beginStep s = stepped s := rfl
  simp only [step, hbegin, hinputs, arriveAll, harrive]

theorem decode_of_decodeWhole {f : Format} {ws : List Word} {i : Instr}
    (h : decodeWhole f ws = some i) : decode f ws = .ok (i, []) := by
  unfold decodeWhole at h
  split at h
  · next hdec => cases h; exact hdec
  all_goals cases h

/-- Settles O4: the decoder refuses the stray bits, and the record of `C = 0` has no latch. -/
theorem malformedEventRecordsRefused : Obligations.MalformedEventRecordsRefused := by
  refine ⟨exec_evPwm_zero, fun h payload s hbad hreset hinputs => ?_⟩
  refine step_eq_refused hinputs (arrive_event_refused hreset fun i hi => ?_)
  have hdec : decodeEvent (h :: payload) = .ok (i, []) := decode_of_decodeWhole hi
  obtain ⟨hres, hhall, hplain⟩ := cleanHeader_of_decodeEvent hdec
  rcases hbad with hbit | ⟨hne, hbit⟩ | ⟨hne, hne', hbit⟩ | ⟨rfl, rfl⟩
  · exact absurd hres hbit
  · exact absurd (hhall hne) hbit
  · exact absurd (hplain hne hne') hbit
  · obtain rfl : .evPwm 0 = i := congrArg Prod.fst (Except.ok.inj hdec)
    rfl

end Sys2Proof.Machine
end

section
/-! PROOFS. NOP: its word, and the whole state as its frame (40_dispatch.md R120). -/

namespace Sys2Proof.Machine

/-- The word of NOP: OP, IDX and RSV are all 0 (30_encoding.md R100). -/
theorem encode_nop : encode .nop = [0x00000000#32] := by decide

@[simp] theorem exec_nop (s : State) : exec .nop s = .next s := rfl

/-- Settles O17: the word has every field 0, and the dispatch answers with the state it was given. -/
theorem nopChangesNothing : Obligations.NopChangesNothing :=
  ⟨encode_nop, exec_nop⟩

end Sys2Proof.Machine
end

section
/-! PROOFS. PI controllers (41_pi.md R141 to R150): the commands and writes as updates of one
controller's registers, the values of those registers as exact numbers, and the two floors of a gain
change. -/

namespace Sys2Proof.Machine

/-! ## Commands and writes as updates of one controller -/

theorem piSelect_ofNat (n : Fin 2) : piSelect (BitVec.ofNat 4 n.val) = some n := by
  revert n
  decide

theorem commandWord_ofNat (op : BitVec 8) (n : Fin 2) :
    commandWord op (BitVec.ofNat 4 n.val) = BitVec.ofNat 32 (op.toNat + 0x100 * n.val) := by
  apply BitVec.eq_of_toNat_eq
  rw [toNat_commandWord, BitVec.toNat_ofNat, BitVec.toNat_ofNat]
  omega

theorem exec_piStep (n : Fin 2) (s : State) :
    exec (.piStep (BitVec.ofNat 4 n.val)) s =
      .next ((s.setPi n (piStepRegs (s.pi n))).flagIf (piStepOvf (s.pi n)) .mulovf) := by
  simp only [exec, execPiStep, piSelect_ofNat]

theorem exec_piSeed (n : Fin 2) (s : State) :
    exec (.piSeed (BitVec.ofNat 4 n.val)) s =
      .next (s.setPi n (piSeedRegs s.arg (s.pi n))) := by
  simp only [exec, execPiSeed, piSelect_ofNat]

/-- A write in a PI bank is a write of that controller's register and leaves the other bank. -/
theorem exec_regWrite_pi {n : Fin 2} {q : PiReg} {o : Nat} (ho : o = regOffset (.pi n q)) (v : Word)
    (s : State) :
    exec (.regWrite (BitVec.ofNat 10 o) 4 v) s = .next (s.setPi n (writePi v (s.pi n) q)) := by
  subst ho
  exact exec_regWrite_regOffset (r := .pi n q) nofun v s

/-- A write of `KI` has its side effect (41_pi.md R145). -/
theorem exec_regWrite_ki (n : Fin 2) (v : Word) (s : State) :
    exec (.regWrite (BitVec.ofNat 10 (0x044 + 0x20 * n.val)) 4 v) s =
      .next (s.setPi n (piWriteKi v (s.pi n))) :=
  exec_regWrite_pi (q := .ki) (by simp only [regOffset, piRegOffset]; omega) v s

/-- A write of `OUTMAX` has its side effect (41_pi.md R146). -/
theorem exec_regWrite_outmax (n : Fin 2) (v : Word) (s : State) :
    exec (.regWrite (BitVec.ofNat 10 (0x048 + 0x20 * n.val)) 4 v) s =
      .next (s.setPi n (piWriteOutmax v (s.pi n))) :=
  exec_regWrite_pi (q := .outmax) (by simp only [regOffset, piRegOffset]; omega) v s

@[simp] theorem flagIf_pi (b : Bool) (e : ErrBit) (n : Fin 2) (s : State) :
    (s.flagIf b e).pi n = s.pi n := by
  cases b <;> rfl

theorem flagIf_mulovf (b : Bool) (s : State) :
    s.flagIf b .mulovf = if b then withErr 0x01 s else s := rfl

/-! ## Values of the registers (41_pi.md R141 to R146) -/

theorem toNat_eq_zero_iff {w : Nat} {x : BitVec w} : x.toNat = 0 ↔ x = 0 := by
  rw [← BitVec.toNat_inj]
  rfl

/-- A value cut to a register's range fits that register. -/
theorem toNat_toNonNeg_clamp (x : Int) (hi : NonNeg) :
    ((toNonNeg (clamp x 0 (uval hi))).toNat : Int) = clamp x 0 (uval hi) := by
  have hlt := uval_lt hi
  have hle := clamp_le (x := x) (lo := 0) (hi := uval hi)
  exact toNat_toNonNeg (le_clamp (uval_nonneg hi)) (by omega)

/-- The second product of a step has the updated integrator (41_pi.md R141). -/
theorem uval_piStepRegs_integ (p : PiRegs) : uval (piStepRegs p).integ = piStepInteg p :=
  toNat_piStepInteg p

theorem toNat_piStepOut (p : PiRegs) :
    ((piStepRegs p).out.toNat : Int) =
      clamp (fixmul (uval p.kp) p.errin.toInt + fixmul (uval p.ki) (uval (piStepRegs p).integ)) 0
        (uval p.outmax) := by
  rw [uval_piStepRegs_integ]
  exact toNat_toNonNeg_clamp _ _

theorem piStepOvf_eq (p : PiRegs) :
    piStepOvf p = (fixmulOvf (uval p.kp) p.errin.toInt ||
      fixmulOvf (uval p.ki) (uval (piStepRegs p).integ)) := by
  rw [uval_piStepRegs_integ, piStepOvf]

theorem toNat_piSeedInteg {p : PiRegs} (hki : p.ki ≠ 0) (arg : Word) :
    ((piSeedRegs arg p).integ.toNat : Int) =
      clamp (max arg.toInt 0 * 65536 / uval p.ki) 0 (uval p.imax) := by
  rw [piSeedRegs, if_neg hki]
  exact toNat_toNonNeg_clamp _ _

/-- A bound, and whatever is cut to it, fits its register. -/
theorem toNat_ofNat_of_le_imaxOf {ki outmax x : Nat} (h : x ≤ imaxOf ki outmax) :
    (BitVec.ofNat 31 x).toNat = x := by
  have hle := imaxOf_le ki outmax
  rw [BitVec.toNat_ofNat]
  omega

/-- The integrator rescaled to another gain, by the two floors of R145. -/
def rescaled (integ old new : Nat) : Nat := integ * 65536 / new * old / 65536

theorem toNat_piWriteKi_imax (v : Word) (p : PiRegs) :
    (piWriteKi v p).imax.toNat = imaxOf (piWriteKi v p).ki.toNat p.outmax.toNat :=
  toNat_ofNat_of_le_imaxOf le_rfl

theorem toNat_piWriteKi_integ (v : Word) (p : PiRegs) :
    (piWriteKi v p).integ.toNat =
      min (if (piWriteKi v p).ki.toNat = 0 then p.integ.toNat
        else rescaled p.integ.toNat p.ki.toNat (piWriteKi v p).ki.toNat)
      (piWriteKi v p).imax.toNat := by
  rw [toNat_piWriteKi_imax]
  exact toNat_ofNat_of_le_imaxOf (min_le_right _ _)

/-- Where the clamp does not bind the integrator is the rescaled one (41_pi.md R145, R150). -/
theorem toNat_piWriteKi_integ_of_le {v : Word} {p : PiRegs} (hnew : (piWriteKi v p).ki.toNat ≠ 0)
    (hfree : rescaled p.integ.toNat p.ki.toNat (piWriteKi v p).ki.toNat ≤
      (piWriteKi v p).imax.toNat) :
    (piWriteKi v p).integ.toNat =
      rescaled p.integ.toNat p.ki.toNat (piWriteKi v p).ki.toNat := by
  rw [toNat_piWriteKi_integ, if_neg hnew, min_eq_left hfree]

theorem toNat_piWriteOutmax_imax (v : Word) (p : PiRegs) :
    (piWriteOutmax v p).imax.toNat = imaxOf p.ki.toNat (piWriteOutmax v p).outmax.toNat :=
  toNat_ofNat_of_le_imaxOf le_rfl

theorem toNat_piWriteOutmax_integ (v : Word) (p : PiRegs) :
    (piWriteOutmax v p).integ.toNat = min p.integ.toNat (piWriteOutmax v p).imax.toNat := by
  rw [toNat_piWriteOutmax_imax]
  exact toNat_ofNat_of_le_imaxOf (min_le_right _ _)

/-! ## The I contribution (41_pi.md R143, R148) -/

/-- A product of non-negative numbers, at most 31 bits wide once shifted, does not overflow. -/
theorem fixmulOvf_of_nonneg {a b : Int} (h0 : 0 ≤ a * b) (h1 : fixprod a b ≤ 2147483647) :
    fixmulOvf a b = false := by
  have hnonneg : 0 ≤ fixprod a b := Int.ediv_nonneg h0 (by decide)
  exact fixmulOvf_eq_false (by omega) h1

theorem fixprod_natCast (a b : Nat) : fixprod a b = ((a * b / 65536 : Nat) : Int) := by
  rw [fixprod]
  norm_cast

/-- The seeded integrator, rounded down, contributes no more than the wish; with `KI = 0` it
contributes nothing (41_pi.md R143). -/
theorem fixmul_piSeedRegs_le (arg : Word) (p : PiRegs) :
    fixmul (uval p.ki) (uval (piSeedRegs arg p).integ) ≤ max arg.toInt 0 := by
  by_cases hki : p.ki = 0
  · simp [hki, fixmul_eq_bmod, fixprod, uval]
  · have hpos : 0 < uval p.ki := Int.natCast_pos.2 (Nat.pos_of_ne_zero (mt toNat_eq_zero_iff.1 hki))
    have hfloor : 0 ≤ max arg.toInt 0 * 65536 / uval p.ki := Int.ediv_nonneg (by omega) hpos.le
    have hinteg : uval (piSeedRegs arg p).integ ≤ max arg.toInt 0 * 65536 / uval p.ki := by
      rw [uval, toNat_piSeedInteg hki, clamp, max_eq_left hfloor]
      exact min_le_left _ _
    have hmul : uval p.ki * uval (piSeedRegs arg p).integ ≤ max arg.toInt 0 * 65536 := by
      rw [mul_comm]
      exact (Int.le_ediv_iff_mul_le hpos).1 hinteg
    have hprod : fixprod (uval p.ki) (uval (piSeedRegs arg p).integ) ≤ max arg.toInt 0 := by
      rw [fixprod]
      omega
    have hwish := arg.toInt_lt
    have hnonneg := mul_nonneg hpos.le (uval_nonneg (piSeedRegs arg p).integ)
    rw [fixmul_eq_fixprod (fixmulOvf_of_nonneg hnonneg (by omega))]
    exact hprod

/-- Within the invariant the I product is exact and at most `OUTMAX`. -/
theorem PiRegs.Inv.iterm {p : PiRegs} (h : p.Inv) :
    fixmulOvf p.ki.toNat p.integ.toNat = false ∧
    fixmul p.ki.toNat p.integ.toNat = ((p.ki.toNat * p.integ.toNat / 65536 : Nat) : Int) ∧
    p.ki.toNat * p.integ.toNat / 65536 ≤ p.outmax.toNat := by
  obtain ⟨hinteg, himax⟩ := h
  have hle := imaxOf_contribution (hinteg.trans_eq himax)
  have hlt := p.outmax.isLt
  have hprod := fixprod_natCast p.ki.toNat p.integ.toNat
  have hovf : fixmulOvf p.ki.toNat p.integ.toNat = false :=
    fixmulOvf_of_nonneg (by positivity) (by omega)
  exact ⟨hovf, (fixmul_eq_fixprod hovf).trans hprod, hle⟩

/-! ## The two floors of a gain change (41_pi.md R150) -/

theorem mul_rescaled_le (integ old new : Nat) : new * rescaled integ old new ≤ old * integ := by
  have hq : integ * 65536 / new * new ≤ integ * 65536 := Nat.div_mul_le_self _ _
  have hr : rescaled integ old new * 65536 ≤ integ * 65536 / new * old := Nat.div_mul_le_self _ _
  have hscaled := calc
    new * rescaled integ old new * 65536
      = new * (rescaled integ old new * 65536) := by ring
    _ ≤ new * (integ * 65536 / new * old) := Nat.mul_le_mul_left _ hr
    _ = old * (integ * 65536 / new * new) := by ring
    _ ≤ old * (integ * 65536) := Nat.mul_le_mul_left _ hq
    _ = old * integ * 65536 := by ring
  omega

/-- What the two floors lose: less than `new` in the first, less than 1.0 in the second. -/
theorem le_mul_rescaled {new : Nat} (hnew : new ≠ 0) (integ old : Nat) :
    old * integ * 65536 ≤ new * rescaled integ old new * 65536 + new * 65536 + new * old := by
  have hq : integ * 65536 ≤ (integ * 65536 / new + 1) * new :=
    (Nat.lt_mul_of_div_lt (Nat.lt_succ_self _) (Nat.pos_of_ne_zero hnew)).le
  have hr : integ * 65536 / new * old ≤ (rescaled integ old new + 1) * 65536 := by
    rw [rescaled]
    omega
  calc old * integ * 65536
      = old * (integ * 65536) := by ring
    _ ≤ old * ((integ * 65536 / new + 1) * new) := Nat.mul_le_mul_left _ hq
    _ = new * (integ * 65536 / new * old) + new * old := by ring
    _ ≤ new * ((rescaled integ old new + 1) * 65536) + new * old :=
      Nat.add_le_add_right (Nat.mul_le_mul_left _ hr) _
    _ = new * rescaled integ old new * 65536 + new * 65536 + new * old := by ring

theorem contribution_rescaled_le (integ old new : Nat) :
    new * rescaled integ old new / 65536 ≤ old * integ / 65536 :=
  Nat.div_le_div_right (mul_rescaled_le integ old new)

theorem contribution_drop_le {new : Nat} (hnew : new ≠ 0) (integ old : Nat) :
    old * integ / 65536 * 2 ^ 32 ≤
      new * rescaled integ old new / 65536 * 2 ^ 32 + new * old + new * 2 ^ 16 + 2 * 2 ^ 32 := by
  have hloss := le_mul_rescaled hnew integ old
  have hbefore : old * integ / 65536 * 65536 ≤ old * integ := Nat.div_mul_le_self _ _
  have hnow := Nat.lt_div_mul_add (a := new * rescaled integ old new) (show 0 < 65536 by decide)
  linarith

/-- With both gains at most 1.0 the loss is at most 4 LSBs. -/
theorem contribution_drop_le_four {old new : Nat} (hnew : new ≠ 0) (integ : Nat)
    (hnew1 : new ≤ 0x10000) (hold1 : old ≤ 0x10000) :
    old * integ / 65536 ≤ new * rescaled integ old new / 65536 + 4 := by
  have hgains : new * old ≤ 0x10000 * 0x10000 := Nat.mul_le_mul hnew1 hold1
  have hdrop := contribution_drop_le hnew integ old
  omega

/-- The rescaled integrator exceeds its bound only where the bound is capped and the gain falls. -/
theorem capped_of_imaxOf_lt_rescaled {integ old new outmax : Nat} (hold : old ≠ 0) (hnew : new ≠ 0)
    (hinteg : integ ≤ imaxOf old outmax) (hbind : imaxOf new outmax < rescaled integ old new) :
    new < old ∧ 0x7FFFFFFF < outmax * 65536 / new := by
  have hmul := mul_rescaled_le integ old new
  rw [imaxOf, if_neg hold] at hinteg
  rw [imaxOf, if_neg hnew] at hbind
  have hexact : rescaled integ old new ≤ outmax * 65536 / new := by
    rw [Nat.le_div_iff_mul_le (Nat.pos_of_ne_zero hnew), mul_comm]
    calc new * rescaled integ old new
        ≤ old * integ := hmul
      _ ≤ old * (outmax * 65536 / old) := Nat.mul_le_mul_left _ (by omega)
      _ ≤ outmax * 65536 := Nat.mul_div_le _ _
  refine ⟨?_, by omega⟩
  by_contra hge
  have hle : rescaled integ old new ≤ integ := by
    refine Nat.le_of_mul_le_mul_left ?_ (Nat.pos_of_ne_zero hnew)
    exact hmul.trans (Nat.mul_le_mul_right _ (by omega))
  omega

/-! ## The statements -/

/-- Settles O19: the clamped sums fit their registers, so each register holds the exact value. -/
theorem piStepUpdatesIntegratorAndOutput : Obligations.PiStepUpdatesIntegratorAndOutput := by
  intro n s
  refine ⟨_, congrArg (fun w => [w]) (commandWord_ofNat 0x01 n), exec_piStep n s, ?_, ?_, ?_⟩
  · rw [flagIf_pi, setPi_pi_self]
    exact toNat_piStepInteg (s.pi n)
  · rw [flagIf_pi, setPi_pi_self]
    exact toNat_piStepOut (s.pi n)
  · rw [flagIf_pi, setPi_pi_self, flagIf_mulovf, piStepOvf_eq]
    exact if_congr (Bool.or_eq_true _ _).to_iff rfl rfl

/-- Settles O20: the seed and its contribution are those of the one controller. -/
theorem piSeedSetsIntegrator : Obligations.PiSeedSetsIntegrator := by
  intro n s
  refine ⟨_, congrArg (fun w => [w]) (commandWord_ofNat 0x03 n), exec_piSeed n s, ?_⟩
  rw [setPi_pi_self]
  exact ⟨rfl, fun hki => if_pos hki, fun hki => toNat_piSeedInteg hki s.arg,
    fixmul_piSeedRegs_le s.arg (s.pi n)⟩

/-- Settles O21: each write's registers as exact numbers, and `IMAX` by the definition of `imax`. -/
theorem gainAndLimitWritesKeepBound : Obligations.GainAndLimitWritesKeepBound := by
  intro n v s
  constructor
  · refine ⟨_, exec_regWrite_ki n v s, ?_⟩
    rw [setPi_pi_self]
    have hki : (piWriteKi v (s.pi n)).ki.toNat = v.toNat % 2 ^ 31 := toNat_dropBit31 v
    have himax := toNat_piWriteKi_imax v (s.pi n)
    have hinteg := toNat_piWriteKi_integ v (s.pi n)
    rw [hki] at himax hinteg
    exact ⟨hki, himax, hinteg, rfl⟩
  · refine ⟨_, exec_regWrite_outmax n v s, ?_⟩
    rw [setPi_pi_self]
    have hout : (piWriteOutmax v (s.pi n)).outmax.toNat = v.toNat % 2 ^ 31 := toNat_dropBit31 v
    have himax := toNat_piWriteOutmax_imax v (s.pi n)
    simp only [hout, imaxOf, toNat_eq_zero_iff] at himax
    exact ⟨hout, himax, toNat_piWriteOutmax_integ v (s.pi n), rfl⟩

/-- Settles O22: the step keeps the invariant, within which the I product is exact. -/
theorem itermNeverOverflows : Obligations.ItermNeverOverflows := by
  intro n s t hinv hexec
  rw [exec_piStep] at hexec
  cases hexec
  rw [flagIf_pi, setPi_pi_self]
  obtain ⟨hovf, hval, hle⟩ := hinv.step.iterm
  refine ⟨hovf, hval.trans_le (Int.ofNat_le.2 hle), fun hpterm => ?_⟩
  have hnone : piStepOvf (s.pi n) = false := by
    rw [piStepOvf_eq]
    exact Bool.or_eq_false_iff.2 ⟨hpterm, hovf⟩
  rw [hnone, flagIf_false, setPi_err]

/-- Settles O23: both contributions are exact, before and after; what they differ by is what the two
floors lose. -/
theorem gainChangeIsContinuous : Obligations.GainChangeIsContinuous := by
  intro n v s t hinv hexec hold hnew
  rw [exec_regWrite_ki] at hexec
  cases hexec
  rw [setPi_pi_self] at hnew ⊢
  rw [ne_eq, ← toNat_eq_zero_iff] at hold hnew
  have hbound : _ ≤ imaxOf _ _ := hinv.1.trans_eq hinv.2
  obtain ⟨-, hbefore, -⟩ := hinv.iterm
  obtain ⟨-, hnow, -⟩ : fixmulOvf _ _ = false ∧ _ := (hinv.write v .ki).iterm
  refine ⟨fun hfree => ?_, fun hbind => ?_⟩
  · rw [writePi, toNat_piWriteKi_integ_of_le hnew hfree] at hnow
    rw [hbefore, toNat_piWriteKi_integ_of_le hnew hfree, hnow]
    have hmono := contribution_rescaled_le (s.pi n).integ.toNat (s.pi n).ki.toNat
      (piWriteKi v (s.pi n)).ki.toNat
    have hdrop := contribution_drop_le hnew (s.pi n).integ.toNat (s.pi n).ki.toNat
    refine ⟨Int.ofNat_le.2 hmono, ?_, fun hnew1 hold1 => ?_⟩
    · zify at hdrop
      push_cast
      linarith only [hdrop]
    · have hfour := contribution_drop_le_four hnew (s.pi n).integ.toNat hnew1 hold1
      omega
  · rw [toNat_piWriteKi_imax] at hbind
    exact capped_of_imaxOf_lt_rescaled hold hnew hbound hbind

end Sys2Proof.Machine
end

section
/-! PROOFS. The six reset commands: their words, and the whole state as their frame (41_pi.md R142). -/

namespace Sys2Proof.Machine

/-- Settles O24: each command's words are closed, and each meaning is the record update stated. -/
theorem resetCommandsResetOnlyTheirState : Obligations.ResetCommandsResetOnlyTheirState :=
  ⟨by decide, fun _ => ⟨rfl, rfl, rfl, rfl, rfl, rfl, rfl⟩⟩

end Sys2Proof.Machine
end

section
/-! PROOFS. Angle integrator and waveform (42_waveform.md): the angle after any number of periods, an
update taken apart into its advance and its window close, and the duties of each mode as exact
numbers. -/

namespace Sys2Proof.Machine

/-! ## The angle (42_waveform.md R161, R165, R168) -/

theorem toNat_advanceAngle (angle adelta : Word) (n : Nat) :
    (advanceAngle angle adelta n).toNat = (angle.toNat + adelta.toNat * n) % 2 ^ 32 :=
  BitVec.toNat_ofNat _ _

@[simp] theorem advanceAngle_zero (angle adelta : Word) : advanceAngle angle adelta 0 = angle := by
  simp [advanceAngle]

/-- Periods may be advanced in parts (42_waveform.md R174). -/
theorem advanceAngle_advanceAngle (angle adelta : Word) (m n : Nat) :
    advanceAngle (advanceAngle angle adelta m) adelta n = advanceAngle angle adelta (m + n) := by
  apply BitVec.eq_of_toNat_eq
  simp only [toNat_advanceAngle, Nat.mod_add_mod, mul_add, add_assoc]

/-- The shift of R168 is the floor of 384 steps for each revolution. -/
theorem indexA_eq (angle : Word) : indexA angle = angle.toNat * 384 / 2 ^ 32 := by
  simp only [indexA]
  omega

/-- The delta is stored whole: R161 already reduces it modulo one revolution. -/
theorem toNat_ofNat_adeltaOf (f p : Nat) :
    (BitVec.ofNat 32 (adeltaOf f p)).toNat = f * 65536 / p % 2 ^ 32 := by
  simp [adeltaOf]

/-- Settles O25: the two branches of the meaning are the two cases of R162. -/
theorem angSetfreqComputesDelta : Obligations.AngSetfreqComputesDelta := by
  refine ⟨rfl, fun s => ⟨fun hzero => ?_, fun hpos => ?_⟩⟩
  · rw [exec, execAngSetfreq, if_pos hzero]
    rfl
  · rw [exec, execAngSetfreq, if_neg hpos]
    exact ⟨_, rfl, toNat_ofNat_adeltaOf _ _, rfl⟩

/-! ## Window close and other updates commute -/

theorem windowClose_setIrq (b : IrqBit) (s : State) :
    windowClose (s.setIrq b) = (windowClose s).setIrq b := by
  simp only [windowClose, flagIf_eq, State.setIrq]
  ac_rfl

/-- The close reads no period count. -/
theorem windowClose_pcnt (p : Word) (s : State) :
    windowClose { s with wave.pcnt := p } =
      { windowClose s with wave := { (windowClose s).wave with pcnt := p } } := by
  simp only [windowClose, flagIf_eq]

/-! ## Waveform update (42_waveform.md R165) -/

@[simp] theorem waveUpdate_wave (n : Nat) (s : State) :
    (waveUpdate n s).wave = waveRegsUpdate n s := by
  rw [waveUpdate_frame]

@[simp] theorem waveUpdate_ctrl (n : Nat) (s : State) : (waveUpdate n s).ctrl = s.ctrl := by
  rw [waveUpdate_frame]

/-- An update of no period leaves the angle, so it closes no window (42_waveform.md R173). -/
theorem waveUpdate_zero (s : State) :
    waveUpdate 0 s = State.setIrq .upd { s with wave := waveRegsUpdate 0 s } := by
  simp [waveUpdate, halfCycleEnds]

/-- The registers of an update are those of WAVE_UPDATE at the angle reached. -/
theorem waveRegsUpdate_eq_zero (n : Nat) (s : State) :
    waveRegsUpdate n s =
      waveRegsUpdate 0
        { s with wave.angle := advanceAngle s.wave.angle s.wave.adelta n } := by
  simp [waveRegsUpdate, ampeffOf]

/-- An update of `n` periods is an advance of the angle, WAVE_UPDATE there, and at the end of a
half-cycle a window close (42_waveform.md R165, R172). -/
theorem waveUpdate_eq_advance (n : Nat) (s : State) :
    waveUpdate n s =
      (let u := waveUpdate 0 { s with wave.angle := advanceAngle s.wave.angle s.wave.adelta n }
       if halfCycleEnds n s then windowClose u else u) := by
  dsimp only
  rw [waveUpdate_zero, ← waveRegsUpdate_eq_zero, windowClose_setIrq]
  exact apply_ite (State.setIrq .upd) _ _ _

/-- An update carries the period count along. -/
theorem waveUpdate_pcnt (n : Nat) (p : Word) (s : State) :
    waveUpdate n { s with wave.pcnt := p } =
      { waveUpdate n s with wave := { (waveUpdate n s).wave with pcnt := p } } := by
  have hregs : waveRegsUpdate n { s with wave.pcnt := p } =
      { waveRegsUpdate n s with pcnt := p } := by
    simp [waveRegsUpdate, ampeffOf]
  have hends : halfCycleEnds n { s with wave.pcnt := p } = halfCycleEnds n s := rfl
  simp only [waveUpdate, hregs, hends]
  split
  · rw [windowClose_pcnt p { s with wave := waveRegsUpdate n s }]
    rfl
  · rfl

/-- Settles O26: the frame is that of an update without a close, the amplitude is R166's number. -/
theorem waveUpdateRecomputesDuties : Obligations.WaveUpdateRecomputesDuties := by
  refine ⟨rfl, fun s => ⟨waveUpdate 0 s, rfl, ?_, ?_, ?_⟩⟩
  · rw [waveUpdate_zero]
    simp [State.setIrq, waveRegsUpdate, IrqBit.mask]
  · rw [waveUpdate_wave]
    exact toNat_ampeffOf _ _ _
  · rw [waveUpdate_wave]
    simp [waveRegsUpdate]

/-! ## EV_PWM (42_waveform.md R164) -/

/-- Below `UPDRATE + 1` the event only counts. -/
theorem exec_evPwm_of_lt {c : Word} {s : State} (hc : c ≠ 0)
    (hlt : countPeriods s.wave.pcnt.toNat c.toNat < s.ctrl.updrate.toNat + 1) :
    exec (.evPwm c) s = .next { s with
      pend.pwm := 0, wave.pcnt := BitVec.ofNat 32 (countPeriods s.wave.pcnt.toNat c.toNat) } := by
  rw [exec, execEvPwm, if_neg hc]
  exact if_neg (Nat.not_le.2 hlt)

/-- From `UPDRATE + 1` on one update drains all the counted periods. -/
theorem exec_evPwm_of_le {c : Word} {s : State} (hc : c ≠ 0)
    (hle : s.ctrl.updrate.toNat + 1 ≤ countPeriods s.wave.pcnt.toNat c.toNat) :
    exec (.evPwm c) s = .next (waveUpdate (countPeriods s.wave.pcnt.toNat c.toNat)
      { s with pend.pwm := 0, wave.pcnt := 0 }) := by
  rw [exec, execEvPwm, if_neg hc]
  refine (if_pos hle).trans (congrArg _ ?_)
  exact (waveUpdate_pcnt _ 0 { s with
    pend.pwm := 0, wave.pcnt := BitVec.ofNat 32 (countPeriods s.wave.pcnt.toNat c.toNat) }).symm

theorem Mode.isSine_iff (m : Mode) : m.isSine = true ↔ m = .sine ∨ m = .svpwm := by
  cases m <;> decide

/-- R172's condition, in the words of the statement. -/
theorem halfCycleEnds_iff (n : Nat) (s : State) :
    halfCycleEnds n s = true ↔ (s.ctrl.mode = .sine ∨ s.ctrl.mode = .svpwm) ∧
      (advanceAngle s.wave.angle s.wave.adelta n).getLsbD 31 ≠ s.wave.angle.getLsbD 31 := by
  rw [halfCycleEnds, Bool.and_eq_true, Mode.isSine_iff, bne_iff_ne, BitVec.msb_eq_getLsbD_last,
    BitVec.msb_eq_getLsbD_last]

/-- Settles O29: the update is taken apart into the advance, WAVE_UPDATE and the close. -/
theorem evPwmCountsAndUpdates : Obligations.EvPwmCountsAndUpdates := by
  refine ⟨fun c => rfl, fun c s hc => ⟨exec_evPwm_of_lt hc, fun hle => ?_⟩⟩
  refine ⟨_, _, exec_evPwm_of_le hc hle, ?_, rfl, ?_⟩
  · rw [waveUpdate_wave]
    exact toNat_advanceAngle _ _ _
  · rw [waveUpdate_wave]
    exact (waveUpdate_eq_advance _ _).trans (if_congr (halfCycleEnds_iff _ _) rfl rfl)

/-! ## Angle advance over runs (42_waveform.md R174) -/

theorem foldl_waveUpdate_angle (ns : List Nat) (s : State) :
    (ns.foldl (fun t n => waveUpdate n t) s).wave.angle =
      advanceAngle s.wave.angle s.wave.adelta ns.sum := by
  induction ns generalizing s with
  | nil => simp
  | cons n ns ih =>
    rw [List.foldl_cons, ih, waveUpdate_wave, List.sum_cons]
    exact advanceAngle_advanceAngle _ _ _ _

/-- With `UPDRATE = 0` every EV_PWM updates, by its own and the counted periods. -/
theorem exec_evPwm_of_updrate_zero {c : Word} {s : State} (hc : c ≠ 0) (hrate : s.ctrl.updrate = 0)
    (hfit : s.wave.pcnt.toNat + c.toNat < 2 ^ 32) :
    ∃ u, exec (.evPwm c) s = .next u ∧
      u.wave.angle = advanceAngle s.wave.angle s.wave.adelta (s.wave.pcnt.toNat + c.toNat) ∧
      u.wave.adelta = s.wave.adelta ∧ u.wave.pcnt = 0 ∧ u.ctrl.updrate = 0 := by
  have hcount : countPeriods s.wave.pcnt.toNat c.toNat = s.wave.pcnt.toNat + c.toNat :=
    min_eq_left (by omega)
  have hpos : c.toNat ≠ 0 := mt toNat_eq_zero_iff.1 hc
  have hrate0 : s.ctrl.updrate.toNat = 0 := toNat_eq_zero_iff.2 hrate
  refine ⟨_, exec_evPwm_of_le hc (by omega), ?_⟩
  rw [waveUpdate_wave, waveUpdate_ctrl, hcount]
  exact ⟨rfl, rfl, rfl, hrate⟩

theorem execAll_cons {i : Instr} {s u : State} (h : exec i s = .next u) (is : List Instr) :
    execAll (i :: is) s = execAll is u := by
  rw [execAll, h]

/-- A run of EV_PWM(1) advances the angle by its length and by the periods already counted, which the
first event drains. -/
theorem execAll_evPwm_one_angle (n : Nat) {s : State} (hrate : s.ctrl.updrate = 0)
    (hfit : s.wave.pcnt.toNat + 1 < 2 ^ 32) :
    ∃ t, execAll (List.replicate (n + 1) (.evPwm 1)) s = .next t ∧
      t.wave.angle = advanceAngle s.wave.angle s.wave.adelta (s.wave.pcnt.toNat + 1 + n) := by
  induction n generalizing s with
  | zero =>
    obtain ⟨u, hexec, hangle, -⟩ := exec_evPwm_of_updrate_zero (c := 1) (by decide) hrate hfit
    exact ⟨u, execAll_cons hexec [], hangle⟩
  | succ n ih =>
    obtain ⟨u, hexec, hangle, hdelta, hpcnt, hrate'⟩ :=
      exec_evPwm_of_updrate_zero (c := 1) (by decide) hrate hfit
    obtain ⟨t, hrun, hangle'⟩ := ih hrate' (by rw [hpcnt]; decide)
    refine ⟨t, (execAll_cons hexec _).trans hrun, ?_⟩
    have hperiods : s.wave.pcnt.toNat + 1 + (n + 1) = s.wave.pcnt.toNat + 1 + (0 + 1 + n) := by omega
    rw [hangle', hangle, hdelta, hpcnt, advanceAngle_advanceAngle, hperiods]
    rfl

/-- Settles O30: both runs advance the angle by `PCNT + n` periods. -/
theorem angleAdvancesAdditively : Obligations.AngleAdvancesAdditively := by
  refine ⟨foldl_waveUpdate_angle, fun n s hn hfit hrate => ?_⟩
  obtain ⟨m, rfl⟩ := Nat.exists_eq_succ_of_ne_zero hn.ne'
  have hc : (BitVec.ofNat 32 (m + 1)).toNat = m + 1 := Nat.mod_eq_of_lt (by omega)
  obtain ⟨t, hrun, hangle⟩ := execAll_evPwm_one_angle m hrate (by omega)
  obtain ⟨u, hone, hangle', -⟩ := exec_evPwm_of_updrate_zero (c := BitVec.ofNat 32 (m + 1))
    (mt toNat_eq_zero_iff.2 (by omega)) hrate (by omega)
  refine ⟨t, u, hrun, hone, ?_⟩
  rw [hangle, hangle', hc, Nat.add_right_comm, Nat.add_assoc]

/-! ## Duties (42_waveform.md R168 to R171) -/

/-- The scaled value of a used phase, its index taken modulo one revolution (42_waveform.md R169). -/
theorem phaseValueOf_mod (ampeff : NonNeg) (j : Nat) :
    phaseValueOf ampeff (some (j % 384)) =
      sinRom (j % 384) * (ampeff.toNat : Int) / 65536 :=
  phaseValue_eq ampeff (Nat.mod_lt j (by decide))

/-- The duty of a used phase, its index taken modulo one revolution (42_waveform.md R169). -/
theorem toNat_sineDuty_mod (ampeff : NonNeg) (j : Nat) :
    ((sineDuty ampeff (some (j % 384))).toNat : Int) =
      (min (max (sinRom (j % 384) * (ampeff.toNat : Int) / 65536) (-65536)) 65536 + 65536) / 2 := by
  rw [← phaseValueOf_mod]
  exact toNat_dutyOf _

theorem phaseValue_indexA (angle : Word) (ampeff : NonNeg) :
    phaseValue ampeff (indexA angle) =
      sinRom (indexA angle % 384) * (ampeff.toNat : Int) / 65536 := by
  rw [Nat.mod_eq_of_lt (indexA_lt angle)]
  exact phaseValue_eq ampeff (indexA_lt angle)

theorem indexB_three (dir : Bool) (i : Nat) :
    indexB .three dir i = some ((if dir then i + 128 else i + 256) % 384) := by
  cases dir <;> rfl

theorem indexC_three (dir : Bool) (i : Nat) :
    indexC .three dir i = some ((if dir then i + 256 else i + 128) % 384) := by
  cases dir <;> rfl

theorem svOffset_eq (a b c : Int) :
    svOffset a b c = -((max a (max b c) + min a (min b c)) / 2) := by
  rw [svOffset, max_assoc, min_assoc]

theorem dutiesOf_of_plain_sine {c : Ctrl} (angle : Word) (ampeff : NonNeg)
    (h : c.mode = .sine ∨ (c.mode = .svpwm ∧ c.phcfg ≠ .three)) :
    dutiesOf c angle ampeff = sineDuties c angle ampeff := by
  rcases h with hmode | ⟨hmode, hcfg⟩
  · simp only [dutiesOf, hmode]
  · simp only [dutiesOf, hmode, if_neg hcfg]

theorem dutiesOf_of_spaceVector {c : Ctrl} (angle : Word) (ampeff : NonNeg) (hmode : c.mode = .svpwm)
    (hcfg : c.phcfg = .three) : dutiesOf c angle ampeff = svDuties c angle ampeff := by
  simp only [dutiesOf, hmode, if_pos hcfg]

theorem dutiesOf_of_trapezoid {c : Ctrl} (angle : Word) (ampeff : NonNeg)
    (hmode : c.mode = .trapHall ∨ c.mode = .trapBemf) :
    dutiesOf c angle ampeff = trapDuties ampeff := by
  rcases hmode with hmode | hmode <;> simp only [dutiesOf, hmode]

/-- Settles O27: each configuration names its indices, and each used phase has R169's duty there. -/
theorem sineDutiesFollowTable : Obligations.SineDutiesFollowTable := by
  intro c angle ampeff hmode
  have hi := indexA_lt angle
  have hA := toNat_sineDuty_mod ampeff (indexA angle)
  rw [Nat.mod_eq_of_lt hi] at hA
  dsimp only
  rw [dutiesOf_of_plain_sine angle ampeff hmode, ← indexA_eq, Nat.mod_eq_of_lt hi]
  refine ⟨hi, hA, fun hcfg => ?_, fun hcfg => ?_, fun hcfg hdir => ?_, fun hcfg hdir => ?_⟩
  · rw [sineDuties, hcfg]
    exact ⟨rfl, rfl⟩
  · rw [sineDuties, hcfg]
    exact ⟨toNat_sineDuty_mod ampeff _, rfl⟩
  all_goals
    rw [sineDuties, hcfg, hdir]
    exact ⟨toNat_sineDuty_mod ampeff _, toNat_sineDuty_mod ampeff _⟩

theorem toNat_trapDuty (ampeff : NonNeg) :
    (BitVec.ofNat 17 (min ampeff.toNat 0x10000)).toNat = min ampeff.toNat 0x10000 :=
  Nat.mod_eq_of_lt (by omega)

/-- Settles O28: the model's scaled values are those of the statement, in either direction; the
trapezoid duty fits its register. -/
theorem spaceVectorAndTrapezoidDuties : Obligations.SpaceVectorAndTrapezoidDuties := by
  intro c angle ampeff
  refine ⟨fun hmode hcfg => ?_, fun hmode => ?_⟩
  · dsimp only
    rw [dutiesOf_of_spaceVector angle ampeff hmode hcfg, ← indexA_eq]
    simp only [svDuties, hcfg, indexB_three, indexC_three, phaseValue_indexA, phaseValueOf_mod,
      svOffset_eq, toNat_dutyOf, and_self]
  · rw [dutiesOf_of_trapezoid angle ampeff hmode]
    exact ⟨toNat_trapDuty ampeff, toNat_trapDuty ampeff, toNat_trapDuty ampeff⟩

/-! ## The sine ROM (42_waveform.md R167, R175) -/

theorem sinRom_first_quarter {i : Nat} (h : i ≤ 96) : sinRom i = qsin i := by
  rw [sinRom, if_pos (by omega), sinHalf, if_pos h]

theorem sinRom_second_quarter {i : Nat} (h : 96 < i) (h' : i ≤ 192) : sinRom i = qsin (192 - i) := by
  rw [sinRom, if_pos h', sinHalf, if_neg (by omega)]

theorem sinRom_second_half {i : Nat} (h : 192 < i) (h' : i ≤ 383) :
    sinRom i = -sinRom (i - 192) := by
  rw [sinRom, if_neg (by omega), sinRom, if_pos (by omega)]

/-- The three phases of the ROM cancel up to their roundings (42_waveform.md R175). -/
theorem sinRom_three_phase_sum : ∀ i < 384,
    -1 ≤ sinRom i + sinRom ((i + 128) % 384) + sinRom ((i + 256) % 384) ∧
    sinRom i + sinRom ((i + 128) % 384) + sinRom ((i + 256) % 384) ≤ 1 := by
  decide +kernel

/-- At amplitude 1.0 no phase clips: the duty is half of the table value plus 1.0, rounded down. -/
theorem toNat_sineDuty_full {i : Nat} (h : i < 384) :
    ((sineDuty 0x10000#31 (some i)).toNat : Int) = (sinRom i + 65536) / 2 := by
  have hb := sinRom_bound i h
  have hv := phaseValue_eq 0x10000#31 h
  rw [show (0x10000#31).toNat = 65536 from rfl] at hv
  rw [sineDuty, toNat_dutyOf, hv]
  omega

/-- Three used phases have the indices a third of a revolution apart, whatever the direction, so the
sum of their duties is the same in both. -/
theorem sineDuties_three_sum {c : Ctrl} (angle : Word) (ampeff : NonNeg) (hcfg : c.phcfg = .three) :
    (sineDuties c angle ampeff).a.toNat + (sineDuties c angle ampeff).b.toNat +
        (sineDuties c angle ampeff).c.toNat =
      (sineDuty ampeff (some (indexA angle))).toNat +
        (sineDuty ampeff (some ((indexA angle + 128) % 384))).toNat +
        (sineDuty ampeff (some ((indexA angle + 256) % 384))).toNat := by
  rw [sineDuties, hcfg]
  cases c.dir
  · exact Nat.add_right_comm _ _ _
  · rfl

/-- Settles O31: the table facts run on the ROM; each floor of a duty loses at most half an LSB of the
sum. -/
theorem threePhaseSumStaysInBand : Obligations.ThreePhaseSumStaysInBand := by
  refine ⟨⟨fun i => sinRom_first_quarter, fun i => sinRom_second_quarter,
    fun i => sinRom_second_half, by decide, by decide +kernel, by decide +kernel⟩,
    fun angle c hmode hcfg => ?_, sinRom_three_phase_sum⟩
  dsimp only
  rw [dutiesOf_of_plain_sine _ _ (.inl hmode), sineDuties_three_sum _ _ hcfg]
  have hi := indexA_lt angle
  have hband := sinRom_three_phase_sum (indexA angle) hi
  have hA := toNat_sineDuty_full hi
  have hB := toNat_sineDuty_full (Nat.mod_lt (indexA angle + 128) (show 384 > 0 by decide))
  have hC := toNat_sineDuty_full (Nat.mod_lt (indexA angle + 256) (show 384 > 0 by decide))
  omega

end Sys2Proof.Machine
end

section
/-! PROOFS. Commutation (43_commutation.md R190 to R201): what a table lookup does with a good, an empty
and an illegal mask, said once for the Hall tables and the step table, and the step commands as entries
of a step. -/

namespace Sys2Proof.Machine

/-! ## Words (30_encoding.md R103, R104) -/

theorem commandWord_eq_ofNat (op : BitVec 8) (idx : BitVec 4) :
    commandWord op idx = BitVec.ofNat 32 (op.toNat + 0x100 * idx.toNat) := by
  apply BitVec.eq_of_toNat_eq
  rw [toNat_commandWord, BitVec.toNat_ofNat]
  omega

theorem encode_evHall (h : BitVec 3) (ts : Word) :
    encode (.evHall h ts) = [BitVec.ofNat 32 (0xE2 + 0x10000 * h.toNat), ts] := by
  have hheader : ∀ h : BitVec 3,
      eventHeader (0#13 ++ h) 0xE2 = BitVec.ofNat 32 (0xE2 + 0x10000 * h.toNat) := by decide
  exact congrArg (fun w => [w, ts]) (hheader h)

/-! ## Masks (43_commutation.md R191, R194) -/

/-- A mask is illegal when some leg has both of its switches on. -/
theorem maskIllegal_iff : ∀ m : Mask, maskIllegal m = true ↔
    ∃ p < 3, m.getLsbD (2 * p) = true ∧ m.getLsbD (2 * p + 1) = true := by
  decide +kernel

/-- Bit by bit, the swap exchanges the switches of each leg. -/
theorem getLsbD_swapMask : ∀ (m : Mask), ∀ p < 3,
    (swapMask m).getLsbD (2 * p) = m.getLsbD (2 * p + 1) ∧
    (swapMask m).getLsbD (2 * p + 1) = m.getLsbD (2 * p) := by
  decide +kernel

theorem appliedMask_of_illegal {m : Mask} (h : maskIllegal m = true) : appliedMask m = 0 :=
  if_pos h

theorem appliedMask_of_legal {m : Mask} (h : ¬ maskIllegal m = true) : appliedMask m = m :=
  if_neg h

@[simp] theorem appliedMask_zero : appliedMask 0 = 0 := rfl

/-- The mask that drives nothing is its own reverse. -/
theorem hallMask_of_appliedMask_zero {m : Mask} (h : appliedMask m = 0) (dir : Bool) :
    hallMask dir m = 0 := by
  rw [hallMask, h]
  cases dir <;> rfl

theorem Mode.isTrap_iff (m : Mode) : m.isTrap = true ↔ m = .trapHall ∨ m = .trapBemf := by
  cases m <;> decide

/-! ## Flags of a lookup (43_commutation.md R193, R196) -/

theorem lookupFlags_of_illegal {m : Mask} (h : maskIllegal m = true) (s : State) :
    lookupFlags m s = withErr 0x08 s :=
  if_pos h

theorem lookupFlags_zero (s : State) : lookupFlags 0 s = withErr 0x04 s := rfl

theorem lookupFlags_of_good {m : Mask} (h : ¬ maskIllegal m = true) (hm : m ≠ 0) (s : State) :
    lookupFlags m s = s :=
  (if_neg h).trans (if_neg hm)

/-! ## The phase mask (43_commutation.md R192) -/

/-- Settles O32: the two branches of `SetMask`. -/
theorem setMaskOnChangeOnly : Obligations.SetMaskOnChangeOnly := by
  refine fun m s => ⟨fun hsame => if_pos hsame, fun hnew => ?_⟩
  exact (if_neg hnew).trans (if_congr (Mode.isTrap_iff _) rfl rfl)

/-! ## The Hall lookup (43_commutation.md R193, R195, R199) -/

theorem exec_cmtHall_of_trapHall {s : State} (hmode : s.ctrl.mode = .trapHall) :
    exec .cmtHall s = .next (lookupHall s) :=
  congrArg _ (if_pos hmode)

theorem exec_cmtHall_of_not_trapHall {s : State} (hmode : s.ctrl.mode ≠ .trapHall) :
    exec .cmtHall s = .next s :=
  congrArg _ (if_neg hmode)

theorem lookupHall_of_illegal {s : State} (h : maskIllegal (hallEntry s.ctrl.hall60 s.cmt) = true) :
    lookupHall s = setMask 0 (withErr 0x08 s) := by
  rw [lookupHall, lookupFlags_of_illegal h, hallMask_of_appliedMask_zero (appliedMask_of_illegal h)]

theorem lookupHall_of_empty {s : State} (h : hallEntry s.ctrl.hall60 s.cmt = 0) :
    lookupHall s = setMask 0 (withErr 0x04 s) := by
  rw [lookupHall, h, lookupFlags_zero, hallMask_of_appliedMask_zero appliedMask_zero]

theorem lookupHall_of_good {s : State} (h : ¬ maskIllegal (hallEntry s.ctrl.hall60 s.cmt) = true)
    (hne : hallEntry s.ctrl.hall60 s.cmt ≠ 0) :
    lookupHall s = setMask (if s.ctrl.dir then swapMask (hallEntry s.ctrl.hall60 s.cmt)
      else hallEntry s.ctrl.hall60 s.cmt) s := by
  rw [lookupHall, lookupFlags_of_good h hne, hallMask, appliedMask_of_legal h]

/-- Settles O33: a bad entry is applied as the mask 0, whose reverse is 0; a good one is applied as it
stands or with the switches of each leg exchanged. -/
theorem cmtHallAppliesTableMask : Obligations.CmtHallAppliesTableMask := by
  refine ⟨by decide, fun s => ⟨exec_cmtHall_of_not_trapHall, fun hmode => ?_⟩⟩
  dsimp only
  rw [exec_cmtHall_of_trapHall hmode, ← maskIllegal_iff]
  refine ⟨fun hbad => ?_, fun _ hempty => ?_, fun hgood hne => ?_⟩
  · exact congrArg _ (lookupHall_of_illegal hbad)
  · exact congrArg _ (lookupHall_of_empty hempty)
  · refine ⟨_, congrArg _ (lookupHall_of_good hgood hne), fun hdir => ?_, fun hdir => ?_⟩
    · exact if_neg (Bool.eq_false_iff.1 hdir)
    · rw [if_pos hdir]
      exact getLsbD_swapMask _

theorem hallRises_iff (old new : BitVec 3) :
    hallRises old new = true ↔ old.getLsbD 0 = false ∧ new.getLsbD 0 = true := by
  rw [hallRises, Bool.and_eq_true, Bool.not_eq_true']

/-- EV_HALL is CMT_HALL on the latched Hall state, and then its speed edge. -/
theorem exec_evHall {h : BitVec 3} {s u : State}
    (hu : exec .cmtHall { s with cmt.hall := h } = .next u) (ts : Word) :
    exec (.evHall h ts) s = .next
      (if s.ctrl.mode ≠ .trapBemf ∧ hallRises s.cmt.hall h then speedEdge ts u else u) := by
  cases hu
  rfl

/-- Settles O34: the edge is the rise of sensor A between the old and the latched Hall state. -/
theorem evHallLatchesAndLooksUp : Obligations.EvHallLatchesAndLooksUp := by
  refine ⟨encode_evHall, fun h ts s => ⟨_, rfl, ?_⟩⟩
  rw [exec_evHall rfl]
  simp only [← hallRises_iff]
  split <;> rfl

/-! ## The step lookup (43_commutation.md R196) -/

theorem entryMask_eq_truncate (e : BitVec 9) : entryMask e = e.truncate 6 :=
  (BitVec.setWidth_eq_extractLsb' (by decide)).symm

@[simp] theorem applyStep_zc (s : State) : (applyStep s).zc = s.zc := by
  rw [applyStep_frame]

section
variable {e : BitVec 9} {s : State}

theorem applyStep_of_illegal (he : stabEntry s.ctrl.dir s.cmt = e)
    (h : maskIllegal (entryMask e) = true) :
    applyStep s = setMask 0 (withErr 0x08 { s with cmt.floatph := entryFlt e }) := by
  rw [applyStep, he, lookupFlags_of_illegal h, appliedMask_of_illegal h]

theorem applyStep_of_empty (he : stabEntry s.ctrl.dir s.cmt = e) (h : entryMask e = 0) :
    applyStep s = setMask 0 (withErr 0x04 { s with cmt.floatph := entryFlt e }) := by
  rw [applyStep, he, h, lookupFlags_zero, appliedMask_zero]

theorem applyStep_of_good (he : stabEntry s.ctrl.dir s.cmt = e)
    (h : ¬ maskIllegal (entryMask e) = true) (hne : entryMask e ≠ 0) :
    applyStep s = setMask (entryMask e) { s with cmt.floatph := entryFlt e } := by
  rw [applyStep, he, lookupFlags_of_good h hne, appliedMask_of_legal h]

end

/-! ## Steps (43_commutation.md R197 to R201) -/

theorem enterStep_of_trapBemf {s : State} (hmode : s.ctrl.mode = .trapBemf) (k : Fin 6) :
    enterStep k s = zcArm (applyStep { s with cmt.cstep := k }) :=
  if_pos hmode

theorem enterStep_of_not_trapBemf {s : State} (hmode : s.ctrl.mode ≠ .trapBemf) (k : Fin 6) :
    enterStep k s = { s with cmt.cstep := k } :=
  if_neg hmode

theorem exec_cmtStepset (k : Fin 6) (s : State) :
    exec (.cmtStepset (BitVec.ofNat 4 k.val)) s = .next (enterStep k s) := by
  have hk : (BitVec.ofNat 4 k.val).toNat = k.val := Nat.mod_eq_of_lt (by omega)
  simp only [exec, execCmtStepset, hk, k.isLt, dite_true]

theorem exec_cmtStepset_of_le {k : BitVec 4} (hk : 6 ≤ k.toNat) (s : State) :
    exec (.cmtStepset k) s = .next (withErr 0x20 s) :=
  dif_neg (Nat.not_lt.2 hk)

/-- Settles O35: the lookup is taken at the step just set, and arming the detector follows it. -/
theorem cmtStepsetAppliesEntry : Obligations.CmtStepsetAppliesEntry := by
  refine ⟨fun k => congrArg (fun w => [w]) (commandWord_eq_ofNat 0x21 k),
    fun k s hk => exec_cmtStepset_of_le hk s, fun k s => ⟨fun hmode => ?_, fun hmode => ?_⟩⟩
  · rw [exec_cmtStepset, enterStep_of_not_trapBemf hmode]
  · dsimp only
    rw [exec_cmtStepset, enterStep_of_trapBemf hmode, ← maskIllegal_iff, ← entryMask_eq_truncate]
    refine ⟨applyStep { s with cmt.cstep := k }, ?_, fun hbad => ?_, fun _ hempty => ?_,
      fun hgood hne => ?_⟩
    · rw [zcArm, applyStep_zc]
    · exact applyStep_of_illegal rfl hbad
    · exact applyStep_of_empty rfl hempty
    · exact applyStep_of_good rfl hgood hne

/-- Settles O36: all three enter the next step, EV_CMT in TRAP_BEMF only. -/
theorem stepAdvanceCountsModuloSix : Obligations.StepAdvanceCountsModuloSix := by
  refine ⟨by decide, by decide, fun s => ⟨stepAdv s, ?_, rfl, fun hmode => ?_, fun hmode => ?_⟩⟩
  · exact exec_cmtStepset (nextStep s.cmt.cstep) s
  · exact congrArg _ (if_pos hmode)
  · exact congrArg _ (if_neg hmode)

end Sys2Proof.Machine
end

section
/-! PROOFS. Speed estimator (44_speed.md R212 to R217): a taken sample as one update of the registers
with the speed that follows it, and the 3:1 filter by its fixed points and its distance to the sample. -/

namespace Sys2Proof.Machine

/-! ## Edges that take no sample (44_speed.md R212) -/

theorem elapsed_eq_mod (now before : Word) :
    elapsed now before = (now.toNat + 2 ^ 32 - before.toNat) % 2 ^ 32 := by
  rw [elapsed, BitVec.toNat_sub]
  omega

theorem flagIf_div0 (b : Bool) (s : State) : s.flagIf b .div0 = if b then withErr 0x02 s else s := rfl

theorem speedEdge_of_skip {s : State} (hskip : s.spd.skip = true) (ts : Word) :
    speedEdge ts s =
      { s with spd := { s.spd with edgeage := 0, lastedge := ts, skip := false } } := by
  have hregs : speedEdgeRegs ts s.spd =
      { s.spd with edgeage := 0, lastedge := ts, skip := false } := if_pos hskip
  have hdiv0 : speedEdgeDiv0 ts s.spd = false := by simp [speedEdgeDiv0, hskip]
  rw [speedEdge, hdiv0, flagIf_false, hregs]

theorem speedEdge_of_den_zero {ts : Word} {s : State} (hskip : s.spd.skip = false)
    (hden : speedDen ts s.spd = 0) :
    speedEdge ts s =
      withErr 0x02 { s with spd := { s.spd with edgeage := 0, lastedge := ts } } := by
  have hregs : speedEdgeRegs ts s.spd = { s.spd with edgeage := 0, lastedge := ts } := by
    rw [speedEdgeRegs, if_neg (by simp [hskip]), if_pos hden]
  have hdiv0 : speedEdgeDiv0 ts s.spd = true := by simp [speedEdgeDiv0, hskip, hden]
  rw [speedEdge, hdiv0, flagIf_div0, if_pos rfl, hregs]

/-! ## Samples (44_speed.md R212 to R214) -/

theorem speedSample_lt (sysclk den : Nat) : speedSample sysclk den < 2 ^ 32 := by
  simp only [speedSample]
  omega

theorem speedRejects_iff (maxspeed mspeed sample : Nat) :
    speedRejects maxspeed mspeed sample = true ↔
      maxspeed / 2 < ((sample : Int) - mspeed).natAbs :=
  decide_eq_true_iff

/-- The speed after a sample: the sample itself when it seeds, the old speed when it is rejected, the
filter's answer otherwise. -/
def speedAfter (p : SpeedRegs) (sample : Nat) : Nat :=
  if p.seed then sample
  else if speedRejects p.maxspeed.toNat p.mspeed.toNat sample then p.mspeed.toNat
  else iir3 p.mspeed.toNat sample

theorem speedAfter_of_seed {p : SpeedRegs} (hseed : p.seed = true) (sample : Nat) :
    speedAfter p sample = sample :=
  if_pos hseed

theorem speedAfter_of_rejected {p : SpeedRegs} {sample : Nat} (hseed : p.seed = false)
    (hfar : p.maxspeed.toNat / 2 < ((sample : Int) - p.mspeed.toNat).natAbs) :
    speedAfter p sample = p.mspeed.toNat := by
  rw [speedAfter, if_neg (by simp [hseed]), if_pos ((speedRejects_iff _ _ _).2 hfar)]

theorem speedAfter_of_accepted {p : SpeedRegs} {sample : Nat} (hseed : p.seed = false)
    (hnear : ((sample : Int) - p.mspeed.toNat).natAbs ≤ p.maxspeed.toNat / 2) :
    speedAfter p sample = (3 * p.mspeed.toNat + sample) / 4 := by
  rw [speedAfter, if_neg (by simp [hseed]),
    if_neg (mt (speedRejects_iff _ _ _).1 (Nat.not_lt.2 hnear)), iir3]

/-- The filter of two words is a word, so no case narrows the speed. -/
theorem speedAfter_lt (p : SpeedRegs) {sample : Nat} (hsample : sample < 2 ^ 32) :
    speedAfter p sample < 2 ^ 32 := by
  have hm := p.mspeed.isLt
  have hfilter := iir3_le_max p.mspeed.toNat sample
  unfold speedAfter
  split
  · exact hsample
  · split <;> omega

/-- Seeding, rejection and filter are one update: they differ in the speed alone, and each leaves `SEED`
clear. -/
theorem speedEdgeRegs_of_sample {ts : Word} {p : SpeedRegs} (hskip : p.skip = false)
    (hden : speedDen ts p ≠ 0) :
    speedEdgeRegs ts p =
      (let sample := speedSample p.sysclk.toNat (speedDen ts p)
       { p with
         edgeage := 0, lastedge := ts, seed := false, spdsamp := BitVec.ofNat 32 sample
         mspeed := BitVec.ofNat 32 (speedAfter p sample) }) := by
  rw [speedEdgeRegs, if_neg (by simp [hskip]), if_neg hden]
  dsimp only
  unfold speedAfter
  split
  · rfl
  next hseed =>
    have hseed : p.seed = false := by simpa using hseed
    split
    · rw [BitVec.ofNat_toNat, BitVec.setWidth_eq, ← hseed]
    · rw [← hseed]

theorem speedEdge_of_sample {ts : Word} {s : State} (hskip : s.spd.skip = false)
    (hden : speedDen ts s.spd ≠ 0) :
    speedEdge ts s =
      (let sample := speedSample s.spd.sysclk.toNat (speedDen ts s.spd)
       { s with spd := { s.spd with
         edgeage := 0, lastedge := ts, seed := false, spdsamp := BitVec.ofNat 32 sample
         mspeed := BitVec.ofNat 32 (speedAfter s.spd sample) } }) := by
  have hdiv0 : speedEdgeDiv0 ts s.spd = false := by simp [speedEdgeDiv0, hden]
  rw [speedEdge, hdiv0, flagIf_false, speedEdgeRegs_of_sample hskip hden]

/-- Settles O37: a skipped edge and a zero divisor take no sample; a taken sample decides the speed, and
both fit their registers. -/
theorem speedEdgeFiltersSamples : Obligations.SpeedEdgeFiltersSamples := by
  intro ts s
  dsimp only
  rw [← elapsed_eq_mod, ← speedDen]
  refine ⟨fun hskip => speedEdge_of_skip hskip ts, speedEdge_of_den_zero, fun hskip hden => ?_⟩
  rw [speedEdge_of_sample hskip hden]
  have hsample := speedSample_lt s.spd.sysclk.toNat (speedDen ts s.spd)
  have hspeed := Nat.mod_eq_of_lt (speedAfter_lt s.spd hsample)
  exact ⟨_, rfl, Nat.mod_eq_of_lt hsample,
    fun hseed => ⟨hspeed.trans (speedAfter_of_seed hseed _), rfl⟩,
    fun _ => rfl,
    fun hseed hfar => hspeed.trans (speedAfter_of_rejected hseed hfar),
    fun hseed hnear => hspeed.trans (speedAfter_of_accepted hseed hnear), rfl⟩

/-! ## The 3:1 filter under a constant sample (44_speed.md R217, 46_current.md R258) -/

theorem iir3_mem_of_le {m c : Nat} (h : m ≤ c) : m ≤ iir3 m c ∧ iir3 m c ≤ c := by
  simp only [iir3]
  omega

theorem iir3_mem_of_ge {m c : Nat} (h : c ≤ m) : c ≤ iir3 m c ∧ iir3 m c ≤ m := by
  simp only [iir3]
  omega

/-- The floor stops the filter at the values up to 3 below the sample. -/
theorem iir3_eq_self_iff {m c : Nat} : iir3 m c = m ↔ m ≤ c ∧ c ≤ m + 3 := by
  simp only [iir3]
  omega

theorem dist_iir3_lt {m c : Nat} (hmoves : iir3 m c ≠ m) :
    Nat.dist (iir3 m c) c < Nat.dist m c := by
  rcases Nat.le_total m c with h | h
  · obtain ⟨hlow, hhigh⟩ := iir3_mem_of_le h
    rw [Nat.dist_eq_sub_of_le h, Nat.dist_eq_sub_of_le hhigh]
    omega
  · obtain ⟨hlow, hhigh⟩ := iir3_mem_of_ge h
    rw [Nat.dist_eq_sub_of_le_right h, Nat.dist_eq_sub_of_le_right hlow]
    omega

/-- By induction on the distance to the sample: the filter is at a fixed point, or its next value is
nearer to the sample. -/
theorem iterate_iir3_settles (m c : Nat) :
    ∃ n v : Nat, v ≤ c ∧ c ≤ v + 3 ∧ (c ≤ m → v = c) ∧
      ∀ k, n ≤ k → (fun x => iir3 x c)^[k] m = v := by
  by_cases hfix : iir3 m c = m
  · obtain ⟨hle, hge⟩ := iir3_eq_self_iff.1 hfix
    exact ⟨0, m, hle, hge, fun h => Nat.le_antisymm hle h,
      fun k _ => Function.iterate_fixed hfix k⟩
  · have hnearer := dist_iir3_lt hfix
    obtain ⟨n, v, hle, hge, habove, hkeeps⟩ := iterate_iir3_settles (iir3 m c) c
    refine ⟨n + 1, v, hle, hge, fun h => habove (iir3_mem_of_ge h).1, fun k hk => ?_⟩
    obtain ⟨j, rfl⟩ := Nat.exists_eq_add_of_le' (Nat.one_le_of_lt hk)
    exact hkeeps j (Nat.le_of_succ_le_succ hk)
termination_by Nat.dist m c

/-- Settles O38: the filter stays between its old value and the sample, and comes nearer until it
rests. -/
theorem filterConvergesMonotonically : Obligations.FilterConvergesMonotonically :=
  fun m c => ⟨iir3_mem_of_le, iir3_mem_of_ge, iterate_iir3_settles m c⟩

end Sys2Proof.Machine
end

section
/-! PROOFS. Back-EMF zero-crossing detector (45_bemf.md R233 to R238): what a crossing computes, and what
every operation but a step change and ZC_RESET leaves of a detector that has found its crossing. -/

namespace Sys2Proof.Machine

/-! ## A crossing (45_bemf.md R235, R236) -/

theorem toNat_zcDetectRegs_avgper (ts : Word) (z : ZcRegs) :
    (zcDetectRegs ts z).avgper.toNat = smoothedPeriod ts z :=
  Nat.mod_eq_of_lt (smoothedPeriod_lt ts z)

theorem toNat_zcDetectRegs_cmtdly (ts : Word) (z : ZcRegs) :
    ((zcDetectRegs ts z).cmtdly.toNat : Int) =
      commutationDelay (smoothedPeriod ts z) z.latency.toNat z.pwmper.toNat := by
  obtain ⟨hpos, hfit⟩ := commutationDelay_range (latency := z.latency.toNat)
    (pwmper := z.pwmper.toNat) (smoothedPeriod_lt ts z)
  exact toNat_toWord (by omega) (by omega)

/-- Settles O40: the period and the delay fit their registers, and at step 0 the state with them is what
the speed edge starts from. -/
theorem zcDetectIssuesDelay : Obligations.ZcDetectIssuesDelay := by
  intro ts s
  refine ⟨State.setIrq .zc { s with
    zc := zcDetectRegs ts s.zc, cmtarm := some (zcDetectRegs ts s.zc).cmtdly }, rfl, ?_, ?_, rfl⟩
  · rw [← elapsed_eq_mod]
    exact toNat_zcDetectRegs_avgper ts s.zc
  · rw [setIrq_zc, toNat_zcDetectRegs_avgper]
    exact toNat_zcDetectRegs_cmtdly ts s.zc

/-! ## No crossing: shared operations -/

/-- Between `s` and `t` no crossing is detected: no strobe is issued, `IRQST.ZC` is not set, and the
detector keeps all but the registers the host writes. -/
def NoCrossing (s t : State) : Prop :=
  t.cmtarm = s.cmtarm ∧ (t.irqst.getLsbD 2 = true → s.irqst.getLsbD 2 = true) ∧
  t.zc = { s.zc with
    skiprst := t.zc.skiprst, latency := t.zc.latency, pwmper := t.zc.pwmper, avgper := t.zc.avgper }

theorem NoCrossing.refl (s : State) : NoCrossing s s := ⟨rfl, id, rfl⟩

theorem NoCrossing.trans {s t u : State} (h : NoCrossing s t) (h' : NoCrossing t u) :
    NoCrossing s u := by
  obtain ⟨harm, hirq, hzc⟩ := h
  obtain ⟨harm', hirq', hzc'⟩ := h'
  exact ⟨harm'.trans harm, hirq ∘ hirq', by rw [hzc', hzc]⟩

theorem NoCrossing.zcdone_eq {s t : State} (h : NoCrossing s t) : t.zc.zcdone = s.zc.zcdone := by
  obtain ⟨-, -, hzc⟩ := h
  rw [hzc]

/-- `IRQST.ZC` is set by `IrqBit.zc` alone. -/
theorem getLsbD_two_of_or_irqMask {b : IrqBit} (hb : b ≠ .zc) {q : BitVec 5}
    (h : (q ||| b.mask).getLsbD 2 = true) : q.getLsbD 2 = true := by
  have hmask : b.mask.getLsbD 2 = false := by revert hb; cases b <;> decide
  rwa [BitVec.getLsbD_or, hmask, Bool.or_false] at h

theorem NoCrossing.setIrq {b : IrqBit} (hb : b ≠ .zc) (s : State) : NoCrossing s (s.setIrq b) :=
  ⟨rfl, getLsbD_two_of_or_irqMask hb, rfl⟩

theorem NoCrossing.flag (e : ErrBit) (s : State) : NoCrossing s (s.flag e) :=
  NoCrossing.setIrq (b := .err) nofun s

theorem NoCrossing.flagIf (b : Bool) (e : ErrBit) (s : State) : NoCrossing s (s.flagIf b e) := by
  cases b with
  | false => exact .refl s
  | true => exact .flag e s

theorem NoCrossing.setPi (n : Fin 2) (p : PiRegs) (s : State) : NoCrossing s (s.setPi n p) := by
  match n with
  | 0 => exact .refl s
  | 1 => exact .refl s

theorem windowClose_noCrossing (s : State) : NoCrossing s (windowClose s) :=
  NoCrossing.flagIf _ _ { s with cur := windowCloseRegs s.wave.ampeff s.cur }

theorem setMask_noCrossing (m : Mask) (s : State) : NoCrossing s (setMask m s) := by
  have hirq : NoCrossing s (State.setIrq .cmt { s with cmt := { s.cmt with phmask := m } }) :=
    NoCrossing.setIrq (b := .cmt) nofun s
  unfold setMask
  split
  · exact .refl s
  · dsimp only
    split
    · exact hirq.trans (windowClose_noCrossing _)
    · exact hirq

theorem lookupFlags_noCrossing (m : Mask) (s : State) : NoCrossing s (lookupFlags m s) := by
  unfold lookupFlags
  split
  · exact .flag _ s
  · split
    · exact .flag _ s
    · exact .refl s

theorem lookupHall_noCrossing (s : State) : NoCrossing s (lookupHall s) :=
  (lookupFlags_noCrossing _ s).trans (setMask_noCrossing _ _)

theorem speedEdge_noCrossing (ts : Word) (s : State) : NoCrossing s (speedEdge ts s) :=
  NoCrossing.flagIf _ _ { s with spd := speedEdgeRegs ts s.spd }

theorem waveUpdate_noCrossing (n : Nat) (s : State) : NoCrossing s (waveUpdate n s) := by
  have hclose : NoCrossing s (windowClose { s with wave := waveRegsUpdate n s }) :=
    windowClose_noCrossing _
  unfold waveUpdate
  dsimp only
  split
  · exact hclose.trans (NoCrossing.setIrq (b := .upd) nofun _)
  · exact NoCrossing.setIrq (b := .upd) nofun s

theorem takeFault_noCrossing (held : BitVec 8) (s : State) : NoCrossing s (takeFault held s) :=
  NoCrossing.setIrq (b := .fault) nofun s

/-- A detector that has found its crossing ignores a sample (45_bemf.md R233). -/
theorem bemfSample_of_zcdone {s : State} (hdone : s.zc.zcdone = true) (vbemf : NonNeg) (ts : Word) :
    bemfSample vbemf ts s = s :=
  if_pos hdone

theorem exec_evAdc_of_zcdone {s : State} (hdone : s.zc.zcdone = true) (ic : BitVec 16)
    (vbemf vb tp ts : Word) :
    exec (.evAdc ic vbemf vb tp ts) s = .next { s with cur := adcLatch ic vb tp s.cur } := by
  have hsample := bemfSample_of_zcdone (s := { s with cur := adcLatch ic vb tp s.cur }) hdone
  simp only [exec, execEvAdc, hsample, ite_self]

/-! ## No crossing: commands and events -/

theorem execAngSetfreq_noCrossing (s : State) : Ensures (NoCrossing s) (execAngSetfreq s) := by
  refine ensures_next.2 ?_
  split
  · exact NoCrossing.flag .div0 { s with wave := _ }
  · exact .refl s

theorem execEvPwm_noCrossing (c : Word) (s : State) : Ensures (NoCrossing s) (execEvPwm c s) := by
  unfold execEvPwm
  split
  · exact ensures_refused
  · dsimp only
    split
    · exact ensures_next.2
        (waveUpdate_noCrossing _ { s with pend.pwm := 0, wave.pcnt := BitVec.ofNat 32 _ })
    · exact ensures_next.2 (.refl s)

theorem execEvHall_noCrossing (e : BitVec 3) (ts : Word) (s : State) :
    Ensures (NoCrossing s) (execEvHall e ts s) := by
  have hlookup : NoCrossing s (if s.ctrl.mode = .trapHall
      then lookupHall { s with cmt := { s.cmt with hall := e } }
      else { s with cmt := { s.cmt with hall := e } }) := by
    split
    · exact lookupHall_noCrossing { s with cmt := { s.cmt with hall := e } }
    · exact .refl s
  refine ensures_next.2 ?_
  split
  · exact hlookup.trans (speedEdge_noCrossing _ _)
  · exact hlookup

theorem execEvTick_noCrossing (s : State) : Ensures (NoCrossing s) (execEvTick s) := by
  refine ensures_next.2 ?_
  split
  · exact .refl s
  · exact takeFault_noCrossing _ (monTick (speedAge s))

/-- After a crossing the step changes and ZC_RESET are the only commands and events that touch the
detector. -/
theorem exec_noCrossing_of_not_access {i : Instr} {s : State} (hi : i.format ≠ .access)
    (hrearm : ¬ rearmsDetector i) (hdone : s.zc.zcdone = true) :
    Ensures (NoCrossing s) (exec i s) := by
  cases i with
  | cmtStepset k => exact absurd (.inr ⟨_, .inr (.inr ⟨k, rfl⟩), .inl rfl⟩) hrearm
  | cmtStepadv => exact absurd (.inr ⟨_, .inl rfl, .inl rfl⟩) hrearm
  | zcReset => exact absurd (.inr ⟨_, .inr (.inl rfl), .inl rfl⟩) hrearm
  | evCmt => exact absurd (.inl rfl) hrearm
  | evAdc ic vbemf vb tp ts =>
    rw [exec_evAdc_of_zcdone hdone]
    exact ensures_next.2 (.refl s)
  | piStep n =>
    exact execPiStep_ensures n (fun k => (NoCrossing.setPi k _ s).trans (.flagIf _ _ _)) (.flag _ s)
  | piReset n => exact execPiReset_ensures n (fun k => .setPi k _ s) (.flag _ s)
  | piSeed n => exact execPiSeed_ensures n (fun k => .setPi k _ s) (.flag _ s)
  | angSetfreq => exact execAngSetfreq_noCrossing s
  | waveUpdate => exact ensures_next.2 (waveUpdate_noCrossing 0 s)
  | cmtHall =>
    refine ensures_next.2 ?_
    split
    · exact lookupHall_noCrossing s
    · exact .refl s
  | estop => exact ensures_next.2 (takeFault_noCrossing _ s)
  | evPwm c => exact execEvPwm_noCrossing c s
  | evHall e ts => exact execEvHall_noCrossing e ts s
  | evTick => exact execEvTick_noCrossing s
  | evAdcerr => exact ensures_next.2 (.flag _ s)
  | outOn | runEnter | runExit =>
    refine ensures_next.2 ?_
    split <;> exact .refl s
  | nop | angReset | spdReset | curReset | faultClear | outOff | evWdog =>
    exact ensures_next.2 (.refl s)
  | regRead | regWrite => exact absurd rfl hi

/-! ## No crossing: host accesses -/

/-- A write of an accepted word to `CMD` is the assembler line of the command it performs
(30_encoding.md R101, R109). -/
theorem execRegWrite_ensures_of_lineCmd {P : State → Prop} {s : State} (o : BitVec 10) (n : Nat)
    (v : Word)
    (hcmd : ∀ j : Instr, j.format = .command → Instr.regWrite o n v = lineCmd j →
      Ensures P (exec j s))
    (hreg : ∀ r, P (writeReg r v s)) (hraise : ∀ e, P (s.raise e)) :
    Ensures P (execRegWrite o n v s) := by
  unfold execRegWrite
  split
  · next r hr =>
    obtain ⟨rfl, rfl⟩ := eq_of_accessedReg hr
    split
    · next hr =>
      subst hr
      unfold execute
      split
      · next j hdec =>
        obtain ⟨hj, henc⟩ := command_of_decodeCommand hdec
        rw [runCommand_eq_exec hj]
        exact hcmd j hj (by rw [lineCmd, lineWr, henc, List.headD_cons])
      · exact ensures_next.2 (hraise _)
    · exact ensures_next.2 (hreg r)
  · exact ensures_next.2 (hraise _)

/-- A command that ends the wait for a crossing does so as its word written to `CMD` as well. -/
theorem rearmsDetector_lineCmd {j : Instr} (hj : j.format = .command) (h : rearmsDetector j) :
    rearmsDetector (lineCmd j) := by
  rcases h with rfl | ⟨k, hk, rfl | rfl⟩
  · exact nomatch hj
  · exact .inr ⟨j, hk, .inr rfl⟩
  · exact nomatch hj

/-- A host write can clear `IRQST.ZC` and write the detector's own host registers. -/
theorem writeReg_noCrossing (r : Reg) (v : Word) (s : State) : NoCrossing s (writeReg r v s) := by
  cases r with
  | irqst =>
    refine ⟨rfl, fun hbit => ?_, rfl⟩
    have hclear := (getLsbD_clear_field (by decide) s.irqst v).symm.trans hbit
    exact (Bool.and_eq_true_iff.1 hclear).1
  | pi n q => exact .setPi n _ s
  | _ => exact ⟨rfl, id, rfl⟩

theorem exec_noCrossing {i : Instr} {s : State} (hrearm : ¬ rearmsDetector i)
    (hdone : s.zc.zcdone = true) : Ensures (NoCrossing s) (exec i s) := by
  cases i with
  | regRead o n =>
    exact execRegRead_ensures o n (fun _ => .refl s)
      (NoCrossing.flag .buserr { s with busData := some 0 })
  | regWrite o n v =>
    refine execRegWrite_ensures_of_lineCmd o n v (fun j hj hline => ?_)
      (writeReg_noCrossing · v s) (.flag · s)
    have hj' : ¬ rearmsDetector j := fun h => hrearm (hline ▸ rearmsDetector_lineCmd hj h)
    exact exec_noCrossing_of_not_access (by simp [hj]) hj' hdone
  | _ => exact exec_noCrossing_of_not_access nofun hrearm hdone

/-! ## Runs (45_bemf.md R238) -/

/-- A run completes by completing its first operation and then the rest. -/
theorem exists_of_execAll_cons {i : Instr} {is : List Instr} {s t : State}
    (h : execAll (i :: is) s = .next t) : ∃ u, exec i s = .next u ∧ execAll is u = .next t := by
  unfold execAll at h
  split at h
  · exact ⟨_, ‹_›, h⟩
  · cases h
  · cases h

theorem execAll_noCrossing {is : List Instr} {s : State} (hdone : s.zc.zcdone = true)
    (hrearm : ∀ i ∈ is, ¬ rearmsDetector i) : Ensures (NoCrossing s) (execAll is s) := by
  induction is generalizing s with
  | nil => exact ensures_next.2 (.refl s)
  | cons i is ih =>
    intro t hrun
    obtain ⟨hhead, htail⟩ := List.forall_mem_cons.1 hrearm
    obtain ⟨u, hexec, hrest⟩ := exists_of_execAll_cons hrun
    have hu : NoCrossing s u := exec_noCrossing hhead hdone u hexec
    exact hu.trans (ih (hu.zcdone_eq.trans hdone) htail t hrest)

theorem execAll_evAdc_of_zcdone {is : List Instr} {s : State} (hdone : s.zc.zcdone = true)
    (hadc : ∀ i ∈ is, ∃ ic vbemf vb tp ts, i = .evAdc ic vbemf vb tp ts) :
    ∃ t, execAll is s = .next t ∧ t = { s with cur := t.cur } := by
  induction is generalizing s with
  | nil => exact ⟨s, rfl, rfl⟩
  | cons i is ih =>
    obtain ⟨⟨ic, vbemf, vb, tp, ts, rfl⟩, htail⟩ := List.forall_mem_cons.1 hadc
    have hexec := exec_evAdc_of_zcdone hdone ic vbemf vb tp ts
    obtain ⟨t, hrun, ht⟩ := ih (s := { s with cur := adcLatch ic vb tp s.cur }) hdone htail
    exact ⟨t, (execAll_cons hexec is).trans hrun, ht⟩

/-- Settles O41, by induction on the run: no operation in it detects a crossing, so `ZCDONE` still holds
for the next one. -/
theorem oneCrossingPerStep : Obligations.OneCrossingPerStep := by
  refine ⟨fun is s t hdone hrearm hrun => ?_, fun is s => execAll_evAdc_of_zcdone⟩
  have hkeeps : NoCrossing s t := execAll_noCrossing hdone hrearm t hrun
  exact ⟨hkeeps.zcdone_eq.trans hdone, hkeeps⟩

end Sys2Proof.Machine
end

section
/-! PROOFS. ADC events and the current filter (46_current.md R250 to R257): what a sample latches
and what the detector then does with it, and the registers of a closed window as exact numbers. -/

namespace Sys2Proof.Machine

/-! ## ADC events (46_current.md R250, R257) -/

/-- Settles O42: the event is its flag. -/
theorem evAdcerrFlagsOnly : Obligations.EvAdcerrFlagsOnly := ⟨rfl, fun _ => rfl⟩

theorem eventHeader_eq_ofNat (hi : BitVec 16) (code : BitVec 8) :
    eventHeader hi code = BitVec.ofNat 32 (code.toNat + 0x10000 * hi.toNat) := by
  have hshift : (hi ++ 0#8).toNat = hi.toNat * 2 ^ 8 := by
    rw [BitVec.toNat_append]
    simp [Nat.shiftLeft_eq]
  have hvalue : (eventHeader hi code).toNat = hi.toNat * 2 ^ 8 * 2 ^ 8 + code.toNat := by
    rw [eventHeader, BitVec.toNat_append, ← Nat.shiftLeft_add_eq_or_of_lt code.isLt,
      Nat.shiftLeft_eq, hshift]
  apply BitVec.eq_of_toNat_eq
  rw [hvalue, BitVec.toNat_ofNat]
  omega

theorem toNat_maxCount (a b : BitVec 16) : (maxCount a b).toNat = max a.toNat b.toNat := by
  unfold maxCount
  split <;> omega

theorem exec_evAdc_of_ne_trapBemf {s : State} (hmode : s.ctrl.mode ≠ .trapBemf) (ic : BitVec 16)
    (vbemf vb tp ts : Word) :
    exec (.evAdc ic vbemf vb tp ts) s = .next { s with cur := adcLatch ic vb tp s.cur } :=
  congrArg Host.Outcome.next (if_neg hmode)

/-- The detector samples with the latches already written (46_current.md R250). -/
theorem exec_evAdc_of_trapBemf {s t : State} {ic : BitVec 16} {vbemf vb tp ts : Word}
    (hmode : s.ctrl.mode = .trapBemf)
    (hsample : bemfSample (dropBit31 vbemf) ts { s with cur := adcLatch ic vb tp s.cur } = t) :
    exec (.evAdc ic vbemf vb tp ts) s = .next t :=
  congrArg Host.Outcome.next ((if_pos hmode).trans hsample)

/-! ## The detector's sample (45_bemf.md R233, R234) -/

theorem bemfCrosses_iff (e : BitVec 9) (vbus vbemf : NonNeg) :
    bemfCrosses e vbus vbemf = true ↔ e.extractLsb' 6 2 ≠ 3#2 ∧
      (if e.getLsbD 8 then vbus.toNat / 2 ≤ vbemf.toNat else vbemf.toNat ≤ vbus.toNat / 2) := by
  have hedge : entryEdge e = e.getLsbD 8 := BitVec.msb_eq_getLsbD_last e
  rw [bemfCrosses, hedge, Bool.and_eq_true, bne_iff_ne, entryFlt]
  cases e.getLsbD 8 <;> simp

section Sample
variable {s : State} {vbemf : NonNeg} {ts : Word} (hdone : s.zc.zcdone = false)
include hdone

theorem bemfSample_of_skipcnt_ne_zero (hskip : s.zc.skipcnt ≠ 0) :
    bemfSample vbemf ts s = { s with zc.skipcnt := s.zc.skipcnt - 1 } := by
  rw [bemfSample, if_neg (by simp [hdone]), if_pos hskip]

theorem bemfSample_of_not_crosses (hskip : s.zc.skipcnt = 0)
    (hno : ¬ bemfCrosses (stabEntry s.ctrl.dir s.cmt) s.cur.vbus vbemf = true) :
    bemfSample vbemf ts s = s := by
  rw [bemfSample, if_neg (by simp [hdone]), if_neg (not_not.2 hskip), if_neg hno]

theorem bemfSample_of_crosses (hskip : s.zc.skipcnt = 0)
    (hyes : bemfCrosses (stabEntry s.ctrl.dir s.cmt) s.cur.vbus vbemf = true) :
    bemfSample vbemf ts s = zcDetect ts s := by
  rw [bemfSample, if_neg (by simp [hdone]), if_neg (not_not.2 hskip), if_pos hyes]

end Sample

/-- Settles O39: the latches are written in every mode, and in TRAP_BEMF the detector's branches are
the cases of R233 on the state with the latches. -/
theorem evAdcLatchesAndDetects : Obligations.EvAdcLatchesAndDetects := by
  refine ⟨fun ic vbemf vb tp ts => congrArg (fun w => [w, vbemf, vb, tp, ts])
    (eventHeader_eq_ofNat ic 0xE1), fun ic vbemf vb tp ts s => ?_⟩
  have hcross := bemfCrosses_iff (stabEntry s.ctrl.dir s.cmt) (dropBit31 vb) (dropBit31 vbemf)
  rw [toNat_dropBit31, toNat_dropBit31] at hcross
  refine ⟨{ s with cur := adcLatch ic vb tp s.cur }, rfl, toNat_maxCount _ _,
    fun hmode => ?_, fun _ hdone => ?_, fun hmode hdone hskip => ?_,
    fun hmode hdone hskip hno => ?_, fun hmode hdone hskip hyes => ?_⟩
  · exact exec_evAdc_of_ne_trapBemf hmode ic vbemf vb tp ts
  · exact exec_evAdc_of_zcdone hdone ic vbemf vb tp ts
  · exact exec_evAdc_of_trapBemf hmode (bemfSample_of_skipcnt_ne_zero hdone hskip)
  · exact exec_evAdc_of_trapBemf hmode (bemfSample_of_not_crosses hdone hskip (mt hcross.1 hno))
  · exact exec_evAdc_of_trapBemf hmode (bemfSample_of_crosses hdone hskip (hcross.2 hyes))

/-! ## The window's values (46_current.md R252 to R255) -/

theorem cal_range (c : CurRegs) (pk : BitVec 16) : 0 ≤ cal c pk ∧ cal c pk ≤ 0x7FFFFFFF :=
  ⟨le_clamp (by decide), clamp_le⟩

theorem closePeak_eq_cal (c : CurRegs) : (closePeak c : Int) = cal c c.pkacc :=
  Int.toNat_of_nonneg (cal_range c c.pkacc).1

theorem closeAvg_le_max (c : CurRegs) : closeAvg c ≤ max c.iavg.toNat (closePeak c) :=
  iir3_le_max _ _

/-- The 15:1 filter of two 32-bit values is one (46_current.md R255). -/
theorem powerFilter_range (ampeff : NonNeg) (c : CurRegs) :
    -2147483648 ≤ (15 * c.power.toInt + powerSample ampeff c) / 16 ∧
      (15 * c.power.toInt + powerSample ampeff c) / 16 ≤ 2147483647 := by
  have hsample := fixmul_range (powerVdi ampeff c) (uval c.pwrscale)
  rw [← powerSample] at hsample
  have hlow := c.power.le_toInt
  have hhigh := c.power.toInt_lt
  omega

section Registers
variable (ampeff : NonNeg) (c : CurRegs)

theorem toNat_windowCloseRegs_ipeak : (windowCloseRegs ampeff c).ipeak.toNat = closePeak c := by
  have hcal := cal_range c c.pkacc
  rw [← closePeak_eq_cal] at hcal
  exact Nat.mod_eq_of_lt (by omega)

theorem toNat_windowCloseRegs_iavg : (windowCloseRegs ampeff c).iavg.toNat = closeAvg c := by
  have hpeak := (windowCloseRegs ampeff c).ipeak.isLt
  rw [toNat_windowCloseRegs_ipeak] at hpeak
  have hold := c.iavg.isLt
  have hle := closeAvg_le_max c
  exact Nat.mod_eq_of_lt (by omega)

theorem toInt_windowCloseRegs_irms :
    (windowCloseRegs ampeff c).irms.toInt = fixmul (closeAvg c) (uval c.rmsk) := by
  obtain ⟨hlow, hhigh⟩ := fixmul_range (closeAvg c) (uval c.rmsk)
  exact toInt_toWord hlow hhigh

theorem toInt_windowCloseRegs_power :
    (windowCloseRegs ampeff c).power.toInt = (15 * c.power.toInt + powerSample ampeff c) / 16 := by
  obtain ⟨hlow, hhigh⟩ := powerFilter_range ampeff c
  exact toInt_toWord hlow hhigh

end Registers

/-- Settles O43: every value fits its register, so the products of R252 to R255 are those of the
registers after the close. -/
theorem windowCloseFiltersPeak : Obligations.WindowCloseFiltersPeak := by
  intro s
  refine ⟨windowCloseRegs s.wave.ampeff s.cur, ?_⟩
  rw [toNat_windowCloseRegs_ipeak, toNat_windowCloseRegs_iavg, toInt_windowCloseRegs_irms,
    toInt_windowCloseRegs_power]
  exact ⟨flagIf_mulovf _ _, closePeak_eq_cal s.cur, rfl, rfl, rfl, rfl, closeAvg_le_max s.cur⟩

end Sys2Proof.Machine
end

section
/-! PROOFS. Round trips of the encoding (30_encoding.md sections 1 to 3): the decoder of each port reads
an operation back from its words, and the words it accepts are those of what it answers. -/

namespace Sys2Proof.Machine

/-! ## Words put together from their fields -/

/-- An event header is its upper half and its CODE (30_encoding.md R104). -/
theorem eventHeader_of_fields {h : Word} {code : BitVec 8}
    (hlow : (field 0 16 h).toNat = code.toNat) : eventHeader (field 16 16 h) code = h := by
  have hword := h.isLt
  rw [toNat_field] at hlow
  apply BitVec.eq_of_toNat_eq
  rw [eventHeader_eq_ofNat, BitVec.toNat_ofNat, toNat_field]
  omega

theorem toNat_zero_append {m n : Nat} (x : BitVec n) : (0#m ++ x).toNat = x.toNat := by
  rw [BitVec.toNat_append]
  simp

/-- A header with bits [31:19] clear holds three bits above CODE (30_encoding.md R104). -/
theorem hallField_of_clear {h : Word} (hzero : field 19 13 h = 0) :
    0#13 ++ field 16 3 h = field 16 16 h := by
  have hword := h.isLt
  rw [field_eq_zero_iff] at hzero
  apply BitVec.eq_of_toNat_eq
  rw [toNat_zero_append, toNat_field, toNat_field]
  omega

theorem field_evHall_hall (h : BitVec 3) :
    field 16 3 (eventHeader (0#13 ++ h : BitVec (13 + 3)) 0xE2#8) = h := by
  revert h
  decide

theorem field_evHall_zero (h : BitVec 3) :
    field 19 13 (eventHeader (0#13 ++ h : BitVec (13 + 3)) 0xE2#8) = 0 := by
  revert h
  decide

theorem toNat_accessWord (we : BitVec 1) (o : BitVec 10) :
    (accessWord we o).toNat = we.toNat * 2 ^ 31 + o.toNat := by
  have hlow : (0#21 ++ o).toNat = o.toNat := toNat_zero_append o
  have hassoc : accessWord we o = we ++ (0#21 ++ o) := BitVec.append_assoc ..
  rw [hassoc, BitVec.toNat_append, ← Nat.shiftLeft_add_eq_or_of_lt (0#21 ++ o).isLt, hlow,
    Nat.shiftLeft_eq]

/-- A descriptor is its direction and its offset (30_encoding.md R107). -/
theorem accessWord_of_fields {d : Word} (hzero : field 10 21 d = 0) :
    accessWord (field 31 1 d) (field 0 10 d) = d := by
  have hword := d.isLt
  rw [field_eq_zero_iff] at hzero
  apply BitVec.eq_of_toNat_eq
  rw [toNat_accessWord, toNat_field, toNat_field]
  omega

/-! ## From an operation to its words and back -/

theorem decodeEvent_encode {i : Instr} (hi : i.format = .event) (rest : List Word) :
    decodeEvent (encode i ++ rest) = .ok (i, rest) := by
  cases i with
  | evHall h ts => simp [encode, decodeEvent, field_evHall_hall, field_evHall_zero]
  | evPwm | evAdc | evCmt | evTick | evWdog | evAdcerr => simp [encode, decodeEvent]
  | _ => exact nomatch hi

theorem decodeAccess_encode {i : Instr} (hi : i.format = .access) (hwf : i.wellFormed = true)
    (rest : List Word) : decodeAccess (encode i ++ rest) = .ok (i, rest) := by
  cases i with
  | regRead o size =>
    obtain rfl : size = 4 := eq_of_beq hwf
    simp [encode, decodeAccess]
  | regWrite o size v =>
    obtain rfl : size = 4 := eq_of_beq hwf
    simp [encode, decodeAccess]
  | _ => exact nomatch hi

/-- A command is one word. -/
theorem encode_of_command {i : Instr} (hi : i.format = .command) :
    encode i = [(encode i).headD 0] := by
  cases i with
  | evPwm | evAdc | evHall | evCmt | evTick | evWdog | evAdcerr | regRead | regWrite => exact nomatch hi
  | _ => rfl

/-- Settles O1: each port's decoder reads the fields back from the words the encoder writes. -/
theorem decodeEncodeRoundTrip : Obligations.DecodeEncodeRoundTrip := by
  intro i rest hwf
  cases hi : i.format with
  | command =>
    rw [encode_of_command hi, List.singleton_append]
    simp only [decode, decodeCommand_encode hi]
  | event => exact decodeEvent_encode hi rest
  | access => exact decodeAccess_encode hi hwf rest

/-! ## From accepted words to an operation and back -/

/-- The first word of a record is the header of the CODE that it was accepted with. -/
theorem header_cons_of_low {h : Word} {code : BitVec 8} (payload : List Word)
    (hlow : (field 0 16 h).toNat = code.toNat) :
    eventHeader (field 16 16 h) code :: payload = h :: payload := by
  rw [eventHeader_of_fields hlow]

theorem header_cons_of_hall {h : Word} {code : BitVec 8} (payload : List Word)
    (hlow : (field 0 16 h).toNat = code.toNat) (hzero : field 19 13 h = 0) :
    eventHeader (0#13 ++ field 16 3 h : BitVec (13 + 3)) code :: payload = h :: payload := by
  rw [hallField_of_clear hzero, eventHeader_of_fields hlow]

theorem header_cons_of_plain {h : Word} {code : BitVec 8} (payload : List Word)
    (hlow : (field 0 16 h).toNat = code.toNat) (hhigh : field 16 16 h = 0) :
    eventHeader 0 code :: payload = h :: payload := by
  rw [← hhigh, eventHeader_of_fields hlow]

theorem encode_of_decodeEvent {ws rest : List Word} {i : Instr}
    (hdec : decodeEvent ws = .ok (i, rest)) : encode i ++ rest = ws := by
  cases ws with
  | nil => cases hdec
  | cons h payload =>
    simp only [decodeEvent] at hdec
    split at hdec
    case h_2 hlow => cases hdec; exact header_cons_of_low _ hlow
    case h_3 hlow =>
      split at hdec
      · next hzero => cases hdec; exact header_cons_of_hall _ hlow hzero
      · cases hdec
    case h_8 => cases hdec
    all_goals
      split at hdec
      · next hlow hhigh => cases hdec; exact header_cons_of_plain _ hlow hhigh
      · cases hdec

/-- The one bit of the direction is 0 for a read and 1 for a write. -/
theorem access_of_decodeAccess {ws rest : List Word} {i : Instr}
    (hdec : decodeAccess ws = .ok (i, rest)) : i.format = .access ∧ encode i ++ rest = ws := by
  cases ws with
  | nil => cases hdec
  | cons d tail =>
    simp only [decodeAccess] at hdec
    split at hdec
    · next hzero =>
      have hword := accessWord_of_fields hzero
      split at hdec
      · next hread =>
        cases hdec
        rw [hread] at hword
        exact ⟨rfl, congrArg (· :: rest) hword⟩
      · next hread =>
        rw [(BitVec.eq_zero_or_eq_one _).resolve_left hread] at hword
        split at hdec
        · next v _ =>
          cases hdec
          exact ⟨rfl, congrArg (· :: v :: rest) hword⟩
        · cases hdec
    · cases hdec

/-- Settles O2: each port's decoder accepts a word only with every bit outside its fields clear, so the
fields it reads give the word back. -/
theorem encodeDecodeRoundTrip : Obligations.EncodeDecodeRoundTrip := by
  intro f ws i rest hdec
  cases f with
  | command =>
    cases ws with
    | nil => cases hdec
    | cons w tail =>
      simp only [decode] at hdec
      split at hdec
      · next hcmd =>
        cases hdec
        obtain ⟨hi, henc⟩ := command_of_decodeCommand hcmd
        exact ⟨hi, congrArg (· ++ rest) henc⟩
      · cases hdec
  | event => exact ⟨format_of_decodeEvent hdec, encode_of_decodeEvent hdec⟩
  | access => exact access_of_decodeAccess hdec

end Sys2Proof.Machine
end

section
/-! PROOFS. Fault monitor (47_fault_monitor.md R280 to R293): the two outcomes of a tick, the bits it
latches, the trip, and the commands that switch the outputs and the run. -/

namespace Sys2Proof.Machine

/-! ## Commands (47_fault_monitor.md R283 to R290) -/

/-- Settles O45: the trip is one record update, and no register is a condition of it. -/
theorem estopTrips : Obligations.EstopTrips := ⟨rfl, fun _ => rfl⟩

/-- Settles O46: each command is guarded by the two registers its clauses name. -/
theorem outputAndRunCommands : Obligations.OutputAndRunCommands := by
  refine ⟨by decide, fun s => ⟨fun hfault => ?_, fun hfault => ?_, rfl, fun hfault hrun => ?_,
    fun hor => ?_, fun hrun => ?_, fun hrun => ?_⟩⟩
  · exact congrArg Host.Outcome.next (if_pos hfault)
  · exact congrArg Host.Outcome.next (if_neg hfault)
  · exact congrArg Host.Outcome.next (if_pos ⟨hfault, hrun⟩)
  · have hno : ¬ (s.fault = 0 ∧ s.mon.runst = false) := by
      rintro ⟨hfault, hrun⟩
      simp [hfault, hrun] at hor
    exact congrArg Host.Outcome.next (if_neg hno)
  · exact congrArg Host.Outcome.next (if_pos hrun)
  · exact congrArg Host.Outcome.next (if_neg (by simp [hrun]))

/-! ## The two outcomes of a tick (47_fault_monitor.md R280) -/

theorem exec_evTick_of_clear {s : State} (h : heldFaults (speedAge s) = 0) :
    exec .evTick s = .next (monTick (speedAge s)) :=
  congrArg Host.Outcome.next (if_pos h)

theorem exec_evTick_of_held {s : State} (h : heldFaults (speedAge s) ≠ 0) :
    exec .evTick s = .next (takeFault (heldFaults (speedAge s)) (monTick (speedAge s))) :=
  congrArg Host.Outcome.next (if_neg h)

/-! ## The bits of `held` (47_fault_monitor.md R281) -/

theorem getLsbD_maskIf (b : FaultBit) (holds : Bool) (k : Nat) :
    (b.maskIf holds).getLsbD k = (holds && b.mask.getLsbD k) := by
  cases holds <;> simp [FaultBit.maskIf]

/-- The condition behind each bit of `FAULT` that a tick can latch. -/
def heldAt (s : State) : Nat → Bool
  | 1 => vbusLow s
  | 2 => vbusHigh s
  | 3 => currentLow s
  | 4 => currentHigh s
  | 5 => tempHigh s
  | 6 => stallHolds s
  | 7 => s.mon.wdflag
  | _ => false

theorem getLsbD_heldFaults (s : State) (k : Nat) : (heldFaults s).getLsbD k = heldAt s k := by
  match k with
  | 0 | 1 | 2 | 3 | 4 | 5 | 6 | 7 =>
    simp [-BitVec.getLsbD_eq_getElem, heldFaults, getLsbD_maskIf, FaultBit.mask, heldAt]
  | k + 8 => exact BitVec.getLsbD_of_ge _ _ (by omega)

theorem currentLow_eq (s : State) : currentLow s =
    decide (s.mon.runst = true ∧ s.mon.minspeed.toNat ≤ s.spd.mspeed.toNat ∧
      s.cur.iavg.toNat < s.mon.iminl.toNat) := by
  simp [currentLow, Bool.and_assoc]

theorem stallHolds_eq (s : State) : stallHolds s =
    decide (s.mon.stallth ≠ 0 ∧ s.mon.runst = true ∧
      s.mon.stallth.toNat ≤ stallCount s.mon s.spd.mspeed) := by
  rw [Bool.eq_iff_iff]
  simp [stallHolds, and_assoc]

theorem heldFaults_ne_zero_iff (s : State) : heldFaults s ≠ 0 ↔ ∃ k : Fin 8, heldAt s k = true := by
  constructor
  · intro h
    by_contra hnone
    refine h (BitVec.eq_of_getLsbD_eq fun k hk => ?_)
    rw [getLsbD_heldFaults]
    simpa using (not_exists.1 hnone) ⟨k, hk⟩
  · rintro ⟨k, hk⟩ hzero
    rw [← getLsbD_heldFaults, hzero] at hk
    simp at hk

/-- A tick with a condition held latches its bit and trips; it leaves the measurements and the limits
as they are. -/
theorem exec_evTick_of_heldAt {s : State} {k : Nat} (h : heldAt (speedAge s) k = true) :
    ∃ t, exec .evTick s = .next t ∧ t.fault.getLsbD k = true ∧ t.irqst.getLsbD 0 = true ∧
      t.cur = s.cur ∧
      t.mon = { s.mon with stallcnt := 0, wdflag := false, outen := false, runst := false } := by
  rw [← getLsbD_heldFaults] at h
  have hne : heldFaults (speedAge s) ≠ 0 := by
    intro hzero
    simp [hzero] at h
  refine ⟨_, exec_evTick_of_held hne, ?_, ?_, rfl, rfl⟩
  · rw [takeFault_fault, BitVec.getLsbD_or, h, Bool.or_true]
  · rw [takeFault_irqst, BitVec.getLsbD_or]
    simp [IrqBit.mask]

/-- Settles O47: the tick finds WDFLAG set, which is the condition of bit 7. -/
theorem evWdogTripsAtNextTick : Obligations.EvWdogTripsAtNextTick := by
  refine ⟨by decide, fun s => ⟨rfl, ?_⟩⟩
  have hheld : heldAt (speedAge { s with mon.wdflag := true }) 7 = true := rfl
  obtain ⟨t, hexec, hbit, -, -, hmon⟩ := exec_evTick_of_heldAt hheld
  exact ⟨t, hexec, hbit, by rw [hmon], by rw [hmon], by rw [hmon]⟩

/-! ## The state after a tick (47_fault_monitor.md R280, R282, 44_speed.md R216) -/

/-- The age of the last edge after a tick (44_speed.md R216). -/
def agedTicks (p : SpeedRegs) : Nat := min (p.edgeage.toNat + 1) 0xFFFF

/-- The tick finds no edge for SPDTMO ticks (44_speed.md R216). -/
def timesOut (p : SpeedRegs) : Bool := decide (p.spdtmo ≠ 0 ∧ p.spdtmo.toNat ≤ agedTicks p)

/-- Both branches of `SpeedAge` as one update. -/
theorem speedAgeRegs_eq (p : SpeedRegs) : speedAgeRegs p = { p with
    edgeage := BitVec.ofNat 16 (agedTicks p)
    mspeed := if timesOut p then 0 else p.mspeed
    skip := p.skip || timesOut p
    seed := p.seed || timesOut p } := by
  have hcond : timesOut p = true ↔ p.spdtmo ≠ 0 ∧ p.spdtmo.toNat ≤ agedTicks p :=
    decide_eq_true_iff
  unfold speedAgeRegs
  dsimp only
  split
  · next h => simp [hcond.2 h, agedTicks]
  · next h => simp [Bool.eq_false_iff.2 (mt hcond.1 h), agedTicks]

/-- A tick that finds nothing held ages the speed, counts the stall and consumes WDFLAG. -/
theorem monTick_speedAge (s : State) : monTick (speedAge s) = { s with
    mon.wdflag := false
    mon.stallcnt := BitVec.ofNat 16
      (stallCount s.mon (if timesOut s.spd then 0 else s.spd.mspeed))
    spd.edgeage := BitVec.ofNat 16 (agedTicks s.spd)
    spd.mspeed := if timesOut s.spd then 0 else s.spd.mspeed
    spd.skip := s.spd.skip || timesOut s.spd
    spd.seed := s.spd.seed || timesOut s.spd } := by
  rw [monTick, speedAge, speedAgeRegs_eq]

/-- A trip makes the estimator fresh, whether the tick timed out or not. -/
theorem takeFault_monTick_speedAge (held : BitVec 8) (s : State) :
    takeFault held (monTick (speedAge s)) = { s with
      fault := s.fault ||| held, irqst := s.irqst ||| 0x01#5
      mon.wdflag := false, mon.stallcnt := 0, mon.outen := false, mon.runst := false
      spd.edgeage := 0, spd.mspeed := 0, spd.skip := true, spd.seed := true } := by
  rw [monTick_speedAge]
  rfl

/-- Settles O44: the tick latches the bits of `held`, and whether one of them is set decides between
the trip and the counters alone. -/
theorem evTickLatchesHeldConditions : Obligations.EvTickLatchesHeldConditions := by
  refine ⟨by decide, fun s => ?_⟩
  intro age timeout mspeed stall calPk held
  have hspeed : (speedAge s).spd.mspeed = mspeed := congrArg SpeedRegs.mspeed (speedAgeRegs_eq s.spd)
  have hheld : held = heldAt (speedAge s) := by
    funext k
    match k with
    | 3 => rw [heldAt, currentLow_eq, hspeed]; rfl
    | 6 => rw [heldAt, stallHolds_eq, hspeed]; rfl
    | 0 | 1 | 2 | 4 | 5 | 7 | _ + 8 => rfl
  rw [hheld]
  by_cases hany : ∃ k : Fin 8, heldAt (speedAge s) k = true
  · have hne := (heldFaults_ne_zero_iff _).2 hany
    refine ⟨_, exec_evTick_of_held hne, fun k _ => ?_, ?_⟩
    · rw [takeFault_fault, BitVec.getLsbD_or, getLsbD_heldFaults]
      rfl
    · rw [if_pos hany]
      exact takeFault_monTick_speedAge _ s
  · have hclear := not_not.1 (mt (heldFaults_ne_zero_iff _).1 hany)
    refine ⟨_, exec_evTick_of_clear hclear, fun k _ => ?_, ?_⟩
    · rw [← getLsbD_heldFaults, hclear]
      simp
    · rw [if_neg hany]
      exact monTick_speedAge s

/-! ## Conditions that a tick leaves as they are (47_fault_monitor.md R293) -/

/-- The conditions on the measurement latches read neither the estimator nor what a trip clears. -/
theorem heldAt_of_same_limits {s t : State} {k : Nat} (hk : k = 1 ∨ k = 2 ∨ k = 4 ∨ k = 5)
    (hcur : t.cur = s.cur)
    (hmon : t.mon = { s.mon with
      stallcnt := t.mon.stallcnt, wdflag := t.mon.wdflag, outen := t.mon.outen
      runst := t.mon.runst }) : heldAt t k = heldAt s k := by
  rcases hk with rfl | rfl | rfl | rfl
  · simp only [heldAt, vbusLow]; rw [hcur, hmon]
  · simp only [heldAt, vbusHigh]; rw [hcur, hmon]
  · simp only [heldAt, currentHigh]; rw [hcur, hmon]
  · simp only [heldAt, tempHigh]; rw [hcur, hmon]

/-- Settles O50: neither the tick nor FAULT_CLEAR touches a latch or a limit, so the second tick finds
the condition of the first. -/
theorem heldConditionRelatches : Obligations.HeldConditionRelatches := by
  intro s calPk holds k hholds
  obtain ⟨hk, hheld⟩ : (k = 1 ∨ k = 2 ∨ k = 4 ∨ k = 5) ∧ heldAt s k = true := by
    rcases hholds with ⟨rfl, h⟩ | ⟨rfl, h⟩ | ⟨rfl, h⟩ | ⟨rfl, h⟩
    all_goals exact ⟨by decide, decide_eq_true h⟩
  have hfirst : heldAt (speedAge s) k = heldAt s k := heldAt_of_same_limits hk rfl rfl
  obtain ⟨t, htick, hbit, -, hcur, hmon⟩ := exec_evTick_of_heldAt (hfirst.trans hheld)
  have hsecond : heldAt (speedAge (clearFaults t)) k = heldAt s k :=
    heldAt_of_same_limits hk hcur (by rw [speedAge_mon, clearFaults_mon, hmon])
  obtain ⟨v, htick', hbit', -, -, hmon'⟩ := exec_evTick_of_heldAt (hsecond.trans hheld)
  exact ⟨t, clearFaults t, v, htick, hbit, rfl, rfl, htick', hbit', by rw [hmon'], by rw [hmon']⟩

end Sys2Proof.Machine
end

section
/-! PROOFS. What every operation leaves of the fault monitor (47_fault_monitor.md R291, R292): who clears
a fault bit, who switches the outputs and the run, and how a reading above the current limit lasts until
the next tick. -/

namespace Sys2Proof.Machine

/-! ## Host writes as operations of their own -/

/-- All that a host write can do: perform the command whose line it is, write a register other than
`CMD`, or raise an error. -/
theorem exec_regWrite_cases {o : BitVec 10} {n : Nat} {v : Word} {s t : State}
    (h : exec (.regWrite o n v) s = .next t) :
    (∃ j : Instr, j.format = .command ∧ .regWrite o n v = lineCmd j ∧ exec j s = .next t) ∨
    (∃ r : Reg, .regWrite o n v = lineWr r v ∧ t = writeReg r v s) ∨ ∃ e, t = s.raise e := by
  cases hr : accessedReg o n with
  | none =>
    simp only [exec, execRegWrite, hr] at h
    cases h
    exact .inr (.inr ⟨_, rfl⟩)
  | some r =>
    obtain ⟨rfl, rfl⟩ := eq_of_accessedReg hr
    by_cases hcmd : r = .cmd
    · subst hcmd
      replace h : execute v s = .next t := (exec_regWrite_cmd v s).symm.trans h
      unfold execute at h
      split at h
      · next j hdec =>
        obtain ⟨hj, henc⟩ := command_of_decodeCommand hdec
        rw [runCommand_eq_exec hj] at h
        exact .inl ⟨j, hj, by rw [lineCmd, lineWr, henc, List.headD_cons], h⟩
      · cases h
        exact .inr (.inr ⟨_, rfl⟩)
    · rw [exec_regWrite_regOffset hcmd] at h
      cases h
      exact .inr (.inl ⟨r, rfl, rfl⟩)

/-! ## Shared operations keep the monitor -/

/-- No fault bit changes and neither the outputs nor the run are switched. -/
def KeepsMonitor (s t : State) : Prop :=
  t.fault = s.fault ∧ t.mon.outen = s.mon.outen ∧ t.mon.runst = s.mon.runst

theorem KeepsMonitor.refl (s : State) : KeepsMonitor s s := ⟨rfl, rfl, rfl⟩

theorem KeepsMonitor.trans {s t u : State} (h : KeepsMonitor s t) (h' : KeepsMonitor t u) :
    KeepsMonitor s u := by
  obtain ⟨hfault, hout, hrun⟩ := h
  obtain ⟨hfault', hout', hrun'⟩ := h'
  exact ⟨hfault'.trans hfault, hout'.trans hout, hrun'.trans hrun⟩

theorem KeepsMonitor.setPi (n : Fin 2) (p : PiRegs) (s : State) : KeepsMonitor s (s.setPi n p) := by
  simp [KeepsMonitor]

theorem KeepsMonitor.flagIf (b : Bool) (e : ErrBit) (s : State) : KeepsMonitor s (s.flagIf b e) := by
  simp [KeepsMonitor]

theorem lookupHall_keepsMonitor (s : State) : KeepsMonitor s (lookupHall s) := by
  rw [lookupHall_frame]
  exact .refl s

theorem enterStep_keepsMonitor (k : Fin 6) (s : State) : KeepsMonitor s (enterStep k s) := by
  rw [enterStep_frame]
  exact .refl s

theorem speedEdge_keepsMonitor (ts : Word) (s : State) : KeepsMonitor s (speedEdge ts s) := by
  rw [speedEdge_frame]
  exact .refl s

theorem waveUpdate_keepsMonitor (n : Nat) (s : State) : KeepsMonitor s (waveUpdate n s) := by
  rw [waveUpdate_frame]
  exact .refl s

theorem bemfSample_keepsMonitor (vbemf : NonNeg) (ts : Word) (s : State) :
    KeepsMonitor s (bemfSample vbemf ts s) := by
  rcases bemfSample_cases vbemf ts s with heq | ⟨_, _, heq⟩ | ⟨_, _, heq⟩ <;> rw [heq]
  · exact .refl s
  · exact .refl s
  · rw [zcDetect_frame]
    exact .refl s

theorem execAngSetfreq_keepsMonitor (s : State) : Ensures (KeepsMonitor s) (execAngSetfreq s) := by
  refine ensures_next.2 ?_
  split <;> exact .refl s

theorem execEvPwm_keepsMonitor (c : Word) (s : State) : Ensures (KeepsMonitor s) (execEvPwm c s) := by
  unfold execEvPwm
  split
  · exact ensures_refused
  · dsimp only
    split
    · exact ensures_next.2
        (waveUpdate_keepsMonitor _ { s with pend.pwm := 0, wave.pcnt := BitVec.ofNat 32 _ })
    · exact ensures_next.2 (.refl s)

theorem execEvAdc_keepsMonitor (ic : BitVec 16) (vbemf vb tp ts : Word) (s : State) :
    Ensures (KeepsMonitor s) (execEvAdc ic vbemf vb tp ts s) := by
  refine ensures_next.2 ?_
  split
  · exact bemfSample_keepsMonitor _ _ { s with cur := adcLatch ic vb tp s.cur }
  · exact .refl s

theorem exec_cmtHall_keepsMonitor (s : State) : Ensures (KeepsMonitor s) (exec .cmtHall s) := by
  refine ensures_next.2 ?_
  split
  · exact lookupHall_keepsMonitor s
  · exact .refl s

theorem exec_evHall_keepsMonitor (e : BitVec 3) (ts : Word) (s : State) :
    Ensures (KeepsMonitor s) (exec (.evHall e ts) s) := by
  rw [exec_evHall rfl, ensures_next]
  have hlookup := exec_cmtHall_keepsMonitor { s with cmt.hall := e } _ rfl
  split
  · exact hlookup.trans (speedEdge_keepsMonitor _ _)
  · exact hlookup

/-! ## The law of the monitor (47_fault_monitor.md R291, 10_state.md R27, R28) -/

/-- The commands that switch the outputs or the run (10_state.md R27). -/
def switchingCommands : List Instr := [.outOn, .outOff, .runEnter, .runExit, .estop]

/-- What the operation `i` may do to the fault bits, the outputs and the run. -/
def MonitorLaw (i : Instr) (s t : State) : Prop :=
  (i ≠ .faultClear → ∃ held, t.fault = s.fault ||| held) ∧
  (t.mon.outen ≠ s.mon.outen ∨ t.mon.runst ≠ s.mon.runst → i = .evTick ∨ i ∈ switchingCommands)

theorem KeepsMonitor.law {s t : State} (h : KeepsMonitor s t) (i : Instr) : MonitorLaw i s t := by
  obtain ⟨hfault, hout, hrun⟩ := h
  refine ⟨fun _ => ⟨0, by simp [hfault]⟩, fun hne => ?_⟩
  simp [hout, hrun] at hne

/-- A command that may switch the outputs or the run, and leaves the fault bits. -/
theorem MonitorLaw.of_switching {i : Instr} {s t : State} (hi : i ∈ switchingCommands)
    (hfault : t.fault = s.fault) : MonitorLaw i s t :=
  ⟨fun _ => ⟨0, by simp [hfault]⟩, fun _ => .inr hi⟩

theorem execEvTick_monitorLaw (s : State) : Ensures (MonitorLaw .evTick s) (execEvTick s) := by
  refine ensures_next.2 ⟨fun _ => ?_, fun _ => .inl rfl⟩
  split
  · exact ⟨0, by simp⟩
  · exact ⟨_, takeFault_fault _ _⟩

theorem exec_monitorLaw_of_not_access {i : Instr} (hi : i.format ≠ .access) (s : State) :
    Ensures (MonitorLaw i s) (exec i s) := by
  cases i with
  | faultClear =>
    exact ensures_next.2 ⟨fun hne => absurd rfl hne, fun hne => by simp at hne⟩
  | evTick => exact execEvTick_monitorLaw s
  | estop =>
    exact ensures_next.2 ⟨fun _ => ⟨_, takeFault_fault _ s⟩, fun _ => .inr (by decide)⟩
  | outOff => exact ensures_next.2 (.of_switching (by decide) rfl)
  | outOn | runEnter | runExit =>
    refine ensures_next.2 (.of_switching (by decide) ?_)
    split <;> rfl
  | piStep n =>
    exact execPiStep_ensures n
      (fun k => ((KeepsMonitor.setPi k _ s).trans (.flagIf _ _ _)).law _) ((KeepsMonitor.refl s).law _)
  | piReset n =>
    exact execPiReset_ensures n (fun k => (KeepsMonitor.setPi k _ s).law _) ((KeepsMonitor.refl s).law _)
  | piSeed n =>
    exact execPiSeed_ensures n (fun k => (KeepsMonitor.setPi k _ s).law _) ((KeepsMonitor.refl s).law _)
  | angSetfreq => exact fun t ht => (execAngSetfreq_keepsMonitor s t ht).law _
  | waveUpdate => exact ensures_next.2 ((waveUpdate_keepsMonitor 0 s).law _)
  | cmtHall => exact fun t ht => (exec_cmtHall_keepsMonitor s t ht).law _
  | cmtStepset k =>
    exact execCmtStepset_ensures k (fun j => (enterStep_keepsMonitor j s).law _)
      ((KeepsMonitor.refl s).law _)
  | cmtStepadv => exact ensures_next.2 ((enterStep_keepsMonitor _ s).law _)
  | evPwm c => exact fun t ht => (execEvPwm_keepsMonitor c s t ht).law _
  | evAdc ic vbemf vb tp ts =>
    exact fun t ht => (execEvAdc_keepsMonitor ic vbemf vb tp ts s t ht).law _
  | evHall e ts => exact fun t ht => (exec_evHall_keepsMonitor e ts s t ht).law _
  | evCmt =>
    refine ensures_next.2 (KeepsMonitor.law ?_ _)
    split
    · exact enterStep_keepsMonitor _ s
    · exact .refl s
  | nop | angReset | zcReset | spdReset | curReset | evWdog | evAdcerr =>
    exact ensures_next.2 ((KeepsMonitor.refl s).law _)
  | regRead | regWrite => exact absurd rfl hi

/-- No register the host can write holds a fault bit or a switch. -/
theorem writeReg_keepsMonitor (r : Reg) (v : Word) (s : State) : KeepsMonitor s (writeReg r v s) := by
  cases r with
  | pi n q => exact .setPi n _ s
  | _ => exact ⟨rfl, rfl, rfl⟩

/-- An operation obeys the law itself, or it is the line of a command that does. -/
theorem exec_monitorLaw {i : Instr} {s t : State} (h : exec i s = .next t) :
    ∃ j, (i = j ∨ j.format = .command ∧ i = lineCmd j) ∧ MonitorLaw j s t := by
  by_cases hi : i.format = .access
  · cases i with
    | regRead o n =>
      have hkeeps : Ensures (KeepsMonitor s) (execRegRead o n s) :=
        execRegRead_ensures o n (fun _ => .refl s) (.refl s)
      exact ⟨_, .inl rfl, (hkeeps t h).law _⟩
    | regWrite o n v =>
      rcases exec_regWrite_cases h with ⟨j, hj, hline, hexec⟩ | ⟨r, -, rfl⟩ | ⟨e, rfl⟩
      · exact ⟨j, .inr ⟨hj, hline⟩, exec_monitorLaw_of_not_access (by simp [hj]) s t hexec⟩
      · exact ⟨_, .inl rfl, (writeReg_keepsMonitor r v s).law _⟩
      · exact ⟨_, .inl rfl, (KeepsMonitor.refl s).law _⟩
    | _ => exact nomatch hi
  · exact ⟨i, .inl rfl, exec_monitorLaw_of_not_access hi s t h⟩

/-- Settles O48: an operation, or the command that a write of `CMD` performs, obeys the law of the
monitor. -/
theorem faultBitsStayUntilCleared : Obligations.FaultBitsStayUntilCleared := by
  intro i s t hexec
  obtain ⟨j, hij, hfault, hswitch⟩ := exec_monitorLaw hexec
  refine ⟨fun hclear hline k hk => ?_, fun hchange => ?_⟩
  · have hj : j ≠ .faultClear := by
      rintro rfl
      rcases hij with rfl | ⟨-, rfl⟩
      · exact hclear rfl
      · exact hline (by decide)
    obtain ⟨held, hheld⟩ := hfault hj
    rw [hheld, BitVec.getLsbD_or, hk, Bool.true_or]
  · rcases hswitch hchange with rfl | hj
    · rcases hij with rfl | ⟨hformat, -⟩
      · exact .inl rfl
      · exact nomatch hformat
    · exact .inr ⟨j, hj, hij.imp_right And.right⟩

/-! ## Window closes (46_current.md R252) -/

/-- An operation leaves the current filter, or closes one window. -/
def ClosesOnce (s t : State) : Prop :=
  t.cur = s.cur ∨ ∃ ampeff, t.cur = windowCloseRegs ampeff s.cur

theorem ClosesOnce.of_cur {s t : State} (h : t.cur = s.cur) : ClosesOnce s t := .inl h

theorem windowClose_closesOnce (s : State) : ClosesOnce s (windowClose s) := by
  rw [windowClose_frame]
  exact .inr ⟨_, rfl⟩

theorem setMask_closesOnce (m : Mask) (s : State) : ClosesOnce s (setMask m s) := by
  unfold setMask
  split
  · exact .of_cur rfl
  · dsimp only
    split
    · exact windowClose_closesOnce (State.setIrq .cmt { s with cmt := { s.cmt with phmask := m } })
    · exact .of_cur rfl

/-- The flags of a lookup do not touch the filter, so what its mask change does counts from before. -/
theorem setMask_lookupFlags_closesOnce (m m' : Mask) (s : State) :
    ClosesOnce s (setMask m (lookupFlags m' s)) := by
  have hcur : (lookupFlags m' s).cur = s.cur := by rw [lookupFlags_frame]
  have hmask := setMask_closesOnce m (lookupFlags m' s)
  rwa [ClosesOnce, hcur] at hmask

theorem lookupHall_closesOnce (s : State) : ClosesOnce s (lookupHall s) :=
  setMask_lookupFlags_closesOnce _ _ s

theorem enterStep_closesOnce (k : Fin 6) (s : State) : ClosesOnce s (enterStep k s) := by
  unfold enterStep
  dsimp only
  split
  · exact setMask_lookupFlags_closesOnce _ _ { s with cmt := _ }
  · exact .of_cur rfl

theorem waveUpdate_closesOnce (n : Nat) (s : State) : ClosesOnce s (waveUpdate n s) := by
  unfold waveUpdate
  dsimp only
  split
  · exact windowClose_closesOnce { s with wave := waveRegsUpdate n s }
  · exact .of_cur rfl

theorem execEvPwm_closesOnce (c : Word) (s : State) : Ensures (ClosesOnce s) (execEvPwm c s) := by
  unfold execEvPwm
  split
  · exact ensures_refused
  · dsimp only
    split
    · exact ensures_next.2
        (waveUpdate_closesOnce _ { s with pend.pwm := 0, wave.pcnt := BitVec.ofNat 32 _ })
    · exact ensures_next.2 (.of_cur rfl)

theorem exec_cmtHall_closesOnce (s : State) : Ensures (ClosesOnce s) (exec .cmtHall s) := by
  refine ensures_next.2 ?_
  split
  · exact lookupHall_closesOnce s
  · exact .of_cur rfl

theorem exec_evHall_closesOnce (e : BitVec 3) (ts : Word) (s : State) :
    Ensures (ClosesOnce s) (exec (.evHall e ts) s) := by
  rw [exec_evHall rfl, ensures_next]
  have hlookup := exec_cmtHall_closesOnce { s with cmt.hall := e } _ rfl
  split
  · rw [ClosesOnce, speedEdge_frame]
    exact hlookup
  · exact hlookup

theorem bemfSample_cur (vbemf : NonNeg) (ts : Word) (s : State) :
    (bemfSample vbemf ts s).cur = s.cur := by
  rcases bemfSample_cases vbemf ts s with heq | ⟨_, _, heq⟩ | ⟨_, _, heq⟩ <;> rw [heq]
  rw [zcDetect_frame]

/-! ## What an operation can do to the peak (46_current.md R251 to R256) -/

/-- The latches an ADC event leaves, whatever the detector does with its sample. -/
theorem exec_evAdc_cur (ic : BitVec 16) (vbemf vb tp ts : Word) (s : State) :
    ∃ t, exec (.evAdc ic vbemf vb tp ts) s = .next t ∧ t.cur = adcLatch ic vb tp s.cur := by
  refine ⟨_, rfl, ?_⟩
  split
  · exact bemfSample_cur _ _ _
  · rfl

/-- The peak of the open window grows under the same calibrated peak, or the window closes with the
peak it had. -/
def PeakGrowsOrCloses (s t : State) : Prop :=
  (t.cur.ipeak = s.cur.ipeak ∧ s.cur.pkacc.toNat ≤ t.cur.pkacc.toNat) ∨
    uval t.cur.ipeak = cal s.cur s.cur.pkacc

theorem ClosesOnce.peak {s t : State} (h : ClosesOnce s t) : PeakGrowsOrCloses s t := by
  rcases h with hcur | ⟨ampeff, hcur⟩
  · exact .inl ⟨by rw [hcur], by rw [hcur]⟩
  · right
    rw [hcur, uval, toNat_windowCloseRegs_ipeak, closePeak_eq_cal]

theorem PeakGrowsOrCloses.of_cur {s t : State} (h : t.cur = s.cur) : PeakGrowsOrCloses s t :=
  (ClosesOnce.of_cur h).peak

theorem PeakGrowsOrCloses.evAdc (ic : BitVec 16) (vbemf vb tp ts : Word) (s : State) :
    Ensures (PeakGrowsOrCloses s) (exec (.evAdc ic vbemf vb tp ts) s) := by
  obtain ⟨t, hexec, hcur⟩ := exec_evAdc_cur ic vbemf vb tp ts s
  rw [hexec, ensures_next]
  refine .inl ⟨by rw [hcur]; rfl, ?_⟩
  rw [hcur, adcLatch, toNat_maxCount]
  exact le_max_left _ _

/-- Of the commands and events only CUR_RESET lowers the open peak without a window close. -/
theorem exec_peak_of_not_access {i : Instr} (hi : i.format ≠ .access) (hreset : i ≠ .curReset)
    (s : State) : Ensures (PeakGrowsOrCloses s) (exec i s) := by
  cases i with
  | curReset => exact absurd rfl hreset
  | evAdc ic vbemf vb tp ts => exact .evAdc ic vbemf vb tp ts s
  | piStep n => exact execPiStep_ensures n (fun k => .of_cur (by simp)) (.of_cur rfl)
  | piReset n => exact execPiReset_ensures n (fun k => .of_cur (by simp)) (.of_cur rfl)
  | piSeed n => exact execPiSeed_ensures n (fun k => .of_cur (by simp)) (.of_cur rfl)
  | waveUpdate => exact ensures_next.2 (waveUpdate_closesOnce 0 s).peak
  | cmtStepset k =>
    exact execCmtStepset_ensures k (fun j => (enterStep_closesOnce j s).peak) (.of_cur rfl)
  | cmtStepadv => exact ensures_next.2 (enterStep_closesOnce _ s).peak
  | cmtHall => exact fun t ht => (exec_cmtHall_closesOnce s t ht).peak
  | evCmt =>
    refine ensures_next.2 ?_
    split
    · exact (enterStep_closesOnce _ s).peak
    · exact .of_cur rfl
  | evPwm c => exact fun t ht => (execEvPwm_closesOnce c s t ht).peak
  | evHall e ts => exact fun t ht => (exec_evHall_closesOnce e ts s t ht).peak
  | angSetfreq | outOn | runEnter | runExit | evTick =>
    refine ensures_next.2 (.of_cur ?_)
    split <;> rfl
  | nop | angReset | zcReset | spdReset | faultClear | estop | outOff | evWdog | evAdcerr =>
    exact ensures_next.2 (.of_cur rfl)
  | regRead | regWrite => exact absurd rfl hi

/-- The limit and the calibration that the peak is compared with. -/
def SameLimits (s t : State) : Prop :=
  t.mon.imaxl = s.mon.imaxl ∧ t.cur.calgain = s.cur.calgain ∧ t.cur.calofs = s.cur.calofs

theorem KeepsHost.sameLimits {s t : State} (h : KeepsHost s t) : SameLimits s t :=
  ⟨congrArg HostView.imaxl h, congrArg HostView.calgain h, congrArg HostView.calofs h⟩

/-- A write of another register keeps the filter's peaks, the limit and the calibration. -/
theorem writeReg_peak {r : Reg} (hgain : r ≠ .calgain) (hofs : r ≠ .calofs) (hlimit : r ≠ .imaxl)
    (v : Word) (s : State) : SameLimits s (writeReg r v s) ∧ PeakGrowsOrCloses s (writeReg r v s) := by
  cases r with
  | calgain => exact absurd rfl hgain
  | calofs => exact absurd rfl hofs
  | imaxl => exact absurd rfl hlimit
  | pi n q => exact ⟨by simp [SameLimits, writeReg], .of_cur (setPi_cur _ _ _)⟩
  | _ => exact ⟨⟨rfl, rfl, rfl⟩, .inl ⟨rfl, le_refl _⟩⟩

/-- Commands and events but CUR_RESET keep the comparison, and lose the peak only by closing its
window. -/
theorem exec_peak_of_not_curReset {i : Instr} (hi : i.format ≠ .access) (hreset : i ≠ .curReset)
    {s t : State} (h : exec i s = .next t) : SameLimits s t ∧ PeakGrowsOrCloses s t :=
  ⟨(exec_keepsHost_of_not_access hi s t h).sameLimits, exec_peak_of_not_access hi hreset s t h⟩

/-- No operation but those of `changesPeakTest` changes the comparison, or loses the peak other than by
closing its window. -/
theorem exec_peak {i : Instr} (hi : ¬ changesPeakTest i) {s t : State} (h : exec i s = .next t) :
    SameLimits s t ∧ PeakGrowsOrCloses s t := by
  by_cases hformat : i.format = .access
  · cases i with
    | regRead o n =>
      have hkeeps : Ensures (fun t => SameLimits s t ∧ PeakGrowsOrCloses s t) (execRegRead o n s) :=
        execRegRead_ensures o n (fun _ => ⟨⟨rfl, rfl, rfl⟩, .of_cur rfl⟩)
          ⟨⟨rfl, rfl, rfl⟩, .of_cur rfl⟩
      exact hkeeps t h
    | regWrite o n v =>
      rcases exec_regWrite_cases h with ⟨j, hj, hline, hexec⟩ | ⟨r, hline, rfl⟩ | ⟨e, rfl⟩
      · have hreset : j ≠ .curReset := fun heq => hi (.inr (.inl (heq ▸ hline)))
        exact exec_peak_of_not_curReset (by simp [hj]) hreset hexec
      · rw [hline] at hi
        refine writeReg_peak ?_ ?_ ?_ v s <;> rintro rfl
        · exact hi (.inr (.inr ⟨v, .inl rfl⟩))
        · exact hi (.inr (.inr ⟨v, .inr (.inl rfl)⟩))
        · exact hi (.inr (.inr ⟨v, .inr (.inr rfl)⟩))
      · exact ⟨⟨rfl, rfl, rfl⟩, .of_cur rfl⟩
    | _ => exact nomatch hformat
  · exact exec_peak_of_not_curReset hformat (fun heq => hi (.inl heq)) h

/-! ## A reading above the limit (47_fault_monitor.md R292) -/

/-- The calibrated peak of the open window is above the limit. -/
def OpenPeakHigh (s : State) : Prop := uval s.mon.imaxl < cal s.cur s.cur.pkacc

/-- The peak of the last closed window is above the limit. -/
def ClosedPeakHigh (s : State) : Prop := uval s.mon.imaxl < uval s.cur.ipeak

theorem currentHigh_iff (s : State) :
    currentHigh s = true ↔ ClosedPeakHigh s ∨ OpenPeakHigh s := by
  rw [currentHigh, decide_eq_true_iff, lt_max_iff]
  rfl

/-- Calibration keeps the order of counts (46_current.md R253). -/
theorem cal_mono {c c' : CurRegs} {pk pk' : BitVec 16} (hgain : c'.calgain = c.calgain)
    (hofs : c'.calofs = c.calofs) (hle : pk.toNat ≤ pk'.toNat) : cal c pk ≤ cal c' pk' := by
  have hmul : uval pk * uval c.calgain ≤ uval pk' * uval c.calgain :=
    Int.mul_le_mul_of_nonneg_right (Int.ofNat_le.2 hle) (uval_nonneg _)
  simp only [cal, clamp, hgain, hofs]
  omega

/-- The peak is replaced or lowered: what `peakLosses` counts. -/
def LosesPeak (s t : State) : Prop :=
  t.cur.ipeak ≠ s.cur.ipeak ∨ t.cur.pkacc.toNat < s.cur.pkacc.toNat

theorem ClosedPeakHigh.of_not_loses {s t : State} (h : ClosedPeakHigh s) (hlimits : SameLimits s t)
    (hno : ¬ LosesPeak s t) : ClosedPeakHigh t := by
  obtain ⟨hlimit, -, -⟩ := hlimits
  rwa [ClosedPeakHigh, hlimit, not_not.1 (not_or.1 hno).1]

theorem OpenPeakHigh.of_not_loses {s t : State} (h : OpenPeakHigh s) (hlimits : SameLimits s t)
    (hno : ¬ LosesPeak s t) : OpenPeakHigh t := by
  obtain ⟨hlimit, hgain, hofs⟩ := hlimits
  rw [OpenPeakHigh, hlimit]
  exact lt_of_lt_of_le h (cal_mono hgain hofs (not_lt.1 (not_or.1 hno).2))

/-- The window that held the reading hands it over to IPEAK when it closes. -/
theorem OpenPeakHigh.of_loses {s t : State} (h : OpenPeakHigh s) (hlimits : SameLimits s t)
    (hpeak : PeakGrowsOrCloses s t) (hloses : LosesPeak s t) : ClosedPeakHigh t := by
  obtain ⟨hlimit, -, -⟩ := hlimits
  rcases hpeak with ⟨hsame, hle⟩ | hclose
  · exact absurd hloses (not_or.2 ⟨not_not.2 hsame, not_lt.2 hle⟩)
  · rwa [ClosedPeakHigh, hlimit, hclose]

/-! ## Runs -/

theorem peakLosses_cons_of_not_loses {i : Instr} {s t : State} (h : exec i s = .next t)
    (hno : ¬ LosesPeak s t) (is : List Instr) : peakLosses (i :: is) s = peakLosses is t := by
  simp only [peakLosses, h]
  exact (congrArg (· + peakLosses is t) (if_neg hno)).trans (Nat.zero_add _)

theorem peakLosses_cons_of_loses {i : Instr} {s t : State} (h : exec i s = .next t)
    (hloses : LosesPeak s t) (is : List Instr) :
    peakLosses (i :: is) s = 1 + peakLosses is t := by
  simp only [peakLosses, h]
  exact congrArg (· + peakLosses is t) (if_pos hloses)

/-- Once a window with the reading is closed, the reading stays in IPEAK until the next loss. -/
theorem execAll_closedPeakHigh {is : List Instr} {s : State} (h : ClosedPeakHigh s)
    (hi : ∀ i ∈ is, ¬ changesPeakTest i) (hloss : peakLosses is s = 0) :
    Ensures ClosedPeakHigh (execAll is s) := by
  induction is generalizing s with
  | nil => exact ensures_next.2 h
  | cons i is ih =>
    intro u hrun
    obtain ⟨hhead, htail⟩ := List.forall_mem_cons.1 hi
    obtain ⟨t, hexec, hrest⟩ := exists_of_execAll_cons hrun
    obtain ⟨hlimits, -⟩ := exec_peak hhead hexec
    by_cases hl : LosesPeak s t
    · rw [peakLosses_cons_of_loses hexec hl] at hloss
      omega
    · rw [peakLosses_cons_of_not_loses hexec hl] at hloss
      exact ih (h.of_not_loses hlimits hl) htail hloss u hrest

/-- With one loss allowed, the reading is in the open window or in the one that closed. -/
theorem execAll_openPeakHigh {is : List Instr} {s : State} (h : OpenPeakHigh s)
    (hi : ∀ i ∈ is, ¬ changesPeakTest i) (hloss : peakLosses is s ≤ 1) :
    Ensures (fun u => currentHigh u = true) (execAll is s) := by
  induction is generalizing s with
  | nil => exact ensures_next.2 ((currentHigh_iff s).2 (.inr h))
  | cons i is ih =>
    intro u hrun
    obtain ⟨hhead, htail⟩ := List.forall_mem_cons.1 hi
    obtain ⟨t, hexec, hrest⟩ := exists_of_execAll_cons hrun
    obtain ⟨hlimits, hpeak⟩ := exec_peak hhead hexec
    by_cases hl : LosesPeak s t
    · rw [peakLosses_cons_of_loses hexec hl] at hloss
      have hclosed := h.of_loses hlimits hpeak hl
      exact (currentHigh_iff u).2 (.inl (execAll_closedPeakHigh hclosed htail (by omega) u hrest))
    · rw [peakLosses_cons_of_not_loses hexec hl] at hloss
      exact ih (h.of_not_loses hlimits hl) htail hloss u hrest

/-- Settles O49: the reading is in the open window after its EV_ADC, and at the tick still there or in
the one window that closed, either of which is the condition of bit 4. -/
theorem overcurrentTripsAtNextTick : Obligations.OvercurrentTripsAtNextTick := by
  intro ic vbemf vb tp ts s hover
  obtain ⟨t, hexec, hcur⟩ := exec_evAdc_cur ic vbemf vb tp ts s
  refine ⟨t, hexec, fun is u hi hloss hrun => ?_⟩
  have hlimit : t.mon.imaxl = s.mon.imaxl :=
    congrArg HostView.imaxl
      (exec_keepsHost_of_not_access (i := .evAdc ic vbemf vb tp ts) nofun s t hexec)
  have hopen : OpenPeakHigh t := by
    have hcount : ic.toNat ≤ (maxCount s.cur.pkacc ic).toNat := by
      rw [toNat_maxCount]
      exact le_max_right _ _
    rw [OpenPeakHigh, hlimit, hcur]
    exact lt_of_lt_of_le hover (cal_mono (c := s.cur) rfl rfl hcount)
  have hheld : heldAt (speedAge u) 4 = true := execAll_openPeakHigh hopen hi hloss u hrun
  obtain ⟨v, htick, hbit, hirq, -, hmon⟩ := exec_evTick_of_heldAt hheld
  exact ⟨v, htick, hbit, by rw [hmon], by rw [hmon], hirq⟩

end Sys2Proof.Machine
end

section
/-! PROOFS. Every operation completes (60_exceptions.md R300), what an arrival does to its latch
(70_reset_and_hazards.md R331), and the reset input with the values it leaves (R320). -/

namespace Sys2Proof.Machine

/-! ## Completion (60_exceptions.md R300) -/

/-- The operation answers a next state. -/
def Completes (o : Host.Outcome State Fault Refusal) : Prop := ∃ t, o = .next t

theorem completes_next (t : State) : Completes (.next t) := ⟨t, rfl⟩

/-- A command completes whatever its IDX: an illegal one raises BADCMD. -/
theorem exec_completes_of_command {i : Instr} (hi : i.format = .command) (s : State) :
    Completes (exec i s) := by
  cases i with
  | evPwm | evAdc | evHall | evCmt | evTick | evWdog | evAdcerr | regRead | regWrite => exact nomatch hi
  | piStep | piReset | piSeed | cmtStepset =>
    simp only [exec, execPiStep, execPiReset, execPiSeed, execCmtStepset]
    split <;> exact completes_next _
  | _ => exact completes_next _

theorem execEvPwm_completes {c : Word} (hc : c ≠ 0) (s : State) : Completes (execEvPwm c s) := by
  rw [execEvPwm, if_neg hc]
  dsimp only
  split <;> exact completes_next _

/-- A word written to `CMD` completes as a command or raises BADCMD. -/
theorem execute_completes (w : Word) (s : State) : Completes (execute w s) := by
  unfold execute
  split
  · next hdec =>
    have hi := (command_of_decodeCommand hdec).1
    rw [runCommand_eq_exec hi]
    exact exec_completes_of_command hi s
  · exact completes_next _

theorem execRegRead_completes (o : BitVec 10) (n : Nat) (s : State) :
    Completes (execRegRead o n s) := by
  unfold execRegRead
  split <;> exact completes_next _

theorem execRegWrite_completes (o : BitVec 10) (n : Nat) (v : Word) (s : State) :
    Completes (execRegWrite o n v s) := by
  unfold execRegWrite
  split
  · split
    · exact execute_completes v s
    · exact completes_next _
  · exact completes_next _

/-- Settles O51: the one outcome that is no next state is that of EV_PWM with `C = 0`. -/
theorem everyOperationCompletes : Obligations.EveryOperationCompletes := by
  intro i s hwf
  cases i with
  | evPwm c => exact execEvPwm_completes (by simpa [Instr.wellFormed] using hwf) s
  | evAdc | evHall | evCmt | evTick | evWdog | evAdcerr => exact completes_next _
  | regRead o n => exact execRegRead_completes o n s
  | regWrite o n v => exact execRegWrite_completes o n v s
  | _ => exact exec_completes_of_command rfl s

/-! ## Arrivals at a latch (70_reset_and_hazards.md R331) -/

/-- The record of an event goes to its latch. -/
theorem arrive_encode {i : Instr} {s t : State} (hreset : s.inReset = false)
    (hi : i.format = .event) (hlatch : latchEvent i s = some t) :
    arrive (.event (encode i)) s = .ok t := by
  have hdec : decodeEvent (encode i) = .ok (i, []) := by
    rw [← decodeEvent_encode hi [], List.append_nil]
  exact arrive_event hreset hdec hlatch

/-- A latch without a payload that is full already is as the new arrival leaves it: only EVOVR shows. -/
theorem arrive_encode_of_no_payload {i : Instr} {s t : State} {full : Bool}
    (hreset : s.inReset = false) (hi : i.format = .event)
    (hlatch : latchEvent i s = some (t.flagIf full .evovr)) (hfull : full = true → t = s) :
    arrive (.event (encode i)) s = .ok (if full then withErr 0x80 s else t) := by
  rw [arrive_encode hreset hi hlatch]
  cases full with
  | false => rfl
  | true => rw [hfull rfl]; rfl

/-- Settles O55: each kind's record fills its own latch, and whether that latch was full is its flag. -/
theorem overrunKeepsNewestPayload : Obligations.OverrunKeepsNewestPayload := by
  intro s hreset
  refine ⟨fun h ts => ?hall, fun ic vbemf vb tp ts => ?adc, ?cmt, ?tick, ?wdog, ?adcerr⟩
  case hall | adc | adcerr => exact arrive_encode hreset rfl rfl
  case cmt | tick | wdog =>
    exact arrive_encode_of_no_payload hreset rfl rfl fun hfull => by rw [← hfull]

/-! ## PWM period ends (70_reset_and_hazards.md R331) -/

/-- The state after `n` PWM period ends: the count saturates, and EVOVR is flagged beyond its range. -/
def afterPeriods (n : Nat) (s : State) : State :=
  State.flagIf (decide (2 ^ 32 - 1 < s.pend.pwm.toNat + n)) .evovr
    { s with pend.pwm := BitVec.ofNat 32 (min (s.pend.pwm.toNat + n) (2 ^ 32 - 1)) }

theorem afterPeriods_of_le {n : Nat} {s : State} (h : s.pend.pwm.toNat + n ≤ 2 ^ 32 - 1) :
    afterPeriods n s = { s with pend.pwm := BitVec.ofNat 32 (s.pend.pwm.toNat + n) } := by
  rw [afterPeriods, decide_eq_false (by omega), Nat.min_eq_left h, flagIf_false]

theorem afterPeriods_of_lt {n : Nat} {s : State} (h : 2 ^ 32 - 1 < s.pend.pwm.toNat + n) :
    afterPeriods n s = withErr 0x80 { s with pend.pwm := BitVec.ofNat 32 (2 ^ 32 - 1) } := by
  rw [afterPeriods, decide_eq_true h, Nat.min_eq_right h.le]
  rfl

theorem afterPeriods_zero (s : State) : afterPeriods 0 s = s := by
  have hlt := s.pend.pwm.isLt
  rw [afterPeriods_of_le (by omega), Nat.add_zero, BitVec.ofNat_toNat, BitVec.setWidth_eq]

theorem toNat_afterPeriods_pwm (n : Nat) (s : State) :
    (afterPeriods n s).pend.pwm.toNat = min (s.pend.pwm.toNat + n) (2 ^ 32 - 1) := by
  rw [afterPeriods, flagIf_pend, BitVec.toNat_ofNat]
  omega

theorem afterPeriods_inReset (n : Nat) (s : State) : (afterPeriods n s).inReset = s.inReset := by
  rw [afterPeriods, flagIf_inReset]

/-- A flag that is set stays as it is when it is set again. -/
theorem withErr_withErr (b : BitVec 8) (s : State) : withErr b (withErr b s) = withErr b s := by
  simp [withErr, BitVec.or_assoc]

/-- Period ends add up: from a full count on, each one more is lost with the same flag. -/
theorem afterPeriods_succ (n : Nat) (s : State) :
    afterPeriods (n + 1) s = afterPeriods n (afterPeriods 1 s) := by
  have hcount := toNat_afterPeriods_pwm 1 s
  have hlt := s.pend.pwm.isLt
  rcases Nat.lt_or_ge (2 ^ 32 - 1) (s.pend.pwm.toNat + 1) with hfull | hroom
  · rw [afterPeriods_of_lt (by omega)]
    cases n with
    | zero => rw [afterPeriods_zero, afterPeriods_of_lt hfull]
    | succ n =>
      rw [afterPeriods_of_lt (s := afterPeriods 1 s) (by omega), afterPeriods_of_lt hfull]
      exact (withErr_withErr _ _).symm
  · rcases Nat.lt_or_ge (2 ^ 32 - 1) (s.pend.pwm.toNat + (n + 1)) with hover | hfit
    · rw [afterPeriods_of_lt hover, afterPeriods_of_lt (by omega), afterPeriods_of_le hroom]
    · have hsum : (afterPeriods 1 s).pend.pwm.toNat + n = s.pend.pwm.toNat + (n + 1) := by omega
      rw [afterPeriods_of_le hfit, afterPeriods_of_le (by omega), hsum, afterPeriods_of_le hroom]

/-- A record that carries no more than the arrivals seen is one more period (60_exceptions.md R308). -/
theorem arrivePwm_of_le {c : Word} {s : State} (h : c.toNat ≤ s.pend.pwm.toNat + 1) :
    arrivePwm c s = afterPeriods 1 s := by
  rw [arrivePwm, Nat.max_eq_left h]
  rfl

/-- A record that carries more than the arrivals seen sets the count (log 2). -/
theorem arrivePwm_of_gt {c : Word} {s : State} (h : s.pend.pwm.toNat + 1 < c.toNat) :
    arrivePwm c s = { s with pend.pwm := c } := by
  have hlt := c.isLt
  rw [arrivePwm, Nat.max_eq_right h.le, decide_eq_false (by omega), flagIf_false,
    Nat.min_eq_left (by omega), BitVec.ofNat_toNat, BitVec.setWidth_eq]

theorem arrive_evPwm {c : Word} {s : State} (hreset : s.inReset = false) (hc : c ≠ 0) :
    arrive (.event [0x000000E0#32, c]) s = .ok (arrivePwm c s) :=
  arrive_encode (i := .evPwm c) hreset rfl (if_neg hc)

theorem arriveAll_cons {x : Input} {s t : State} (h : arrive x s = .ok t) (xs : List Input) :
    arriveAll (x :: xs) s = arriveAll xs t := by
  rw [arriveAll, h]

theorem arriveAll_evPwm {cs : List Word} {s : State} (hreset : s.inReset = false)
    (hcs : ∀ (k : Nat) (h : k < cs.length), cs[k] ≠ 0 ∧ cs[k].toNat ≤ s.pend.pwm.toNat + k + 1) :
    arriveAll (cs.map fun c => Input.event [0x000000E0#32, c]) s =
      .ok (afterPeriods cs.length s) := by
  induction cs generalizing s with
  | nil => rw [List.length_nil, afterPeriods_zero]; rfl
  | cons c cs ih =>
    obtain ⟨hc, hle⟩ : c ≠ 0 ∧ c.toNat ≤ s.pend.pwm.toNat + 1 := hcs 0 (Nat.succ_pos _)
    have hcount := toNat_afterPeriods_pwm 1 s
    have htail : ∀ (k : Nat) (h : k < cs.length),
        cs[k] ≠ 0 ∧ cs[k].toNat ≤ (afterPeriods 1 s).pend.pwm.toNat + k + 1 := by
      intro k hk
      obtain ⟨hne, hle'⟩ := hcs (k + 1) (Nat.succ_lt_succ hk)
      rw [List.getElem_cons_succ] at hne hle'
      have hlt := cs[k].isLt
      exact ⟨hne, by omega⟩
    rw [List.map_cons, arriveAll_cons (arrive_evPwm hreset hc), arrivePwm_of_le hle,
      ih ((afterPeriods_inReset 1 s).trans hreset) htail, List.length_cons,
      afterPeriods_succ cs.length]

/-- Settles O56, by induction on the arrivals: each adds one period to what the ones before it left. -/
theorem pwmPeriodsAreNeverLost : Obligations.PwmPeriodsAreNeverLost := by
  refine ⟨fun cs s hreset hcs => ⟨_, arriveAll_evPwm hreset hcs, toNat_afterPeriods_pwm _ s,
    fun hfit => ?_, fun hover => ?_⟩, fun c s hreset hgt => ?_⟩
  · rw [afterPeriods_of_le hfit]
  · rw [afterPeriods_of_lt hover]
    rfl
  · have hc : c ≠ 0 := by
      rintro rfl
      exact absurd hgt (by simp)
    rw [arrive_evPwm hreset hc, arrivePwm_of_gt hgt]

/-! ## The reset input (70_reset_and_hazards.md R320) -/

theorem busCycle_encode_regRead (o : BitVec 10) (n : Nat) :
    busCycle (encode (.regRead o 4)) n = some { write := false, offset := o, size := n, data := 0 } := by
  have hdec : decode .access (encode (.regRead o 4)) = .ok (.regRead o 4, []) :=
    decodeEncodeRoundTrip (.regRead o 4) [] rfl
  rw [busCycle, decodeWhole_eq_some hdec]

theorem busCycle_encode_regWrite (o : BitVec 10) (v : Word) (n : Nat) :
    busCycle (encode (.regWrite o 4 v)) n =
      some { write := true, offset := o, size := n, data := v } := by
  have hdec : decode .access (encode (.regWrite o 4 v)) = .ok (.regWrite o 4 v, []) :=
    decodeEncodeRoundTrip (.regWrite o 4 v) [] rfl
  rw [busCycle, decodeWhole_eq_some hdec]

/-- Settles O57: the reset state is written at the assertion, and every port looks at the reset input
first. -/
theorem resetInputResetsEverything : Obligations.ResetInputResetsEverything := by
  intro s
  refine ⟨rfl, fun hreset => ⟨fun record => if_pos hreset, fun o => ?_, fun o v => ?_, if_pos hreset⟩⟩
  · rw [arrive, if_pos hreset, busInReset, busCycle_encode_regRead]
    rfl
  · rw [arrive, if_pos hreset, busInReset, busCycle_encode_regWrite]
    rfl

/-! ## Reset values (10_state.md sections 2 to 10) -/

/-- The registers whose reset value O58 states: those with a nonzero one, and the sticky bits with their
enables. -/
def statedResetRegs : List Reg :=
  [.ctrl, .status, .err, .fault, .irqen, .irqst, .pi 0 .imax, .pi 1 .imax, .ampcap, .rmsk, .pwrscale,
   .tmax, .vmax, .imaxl, .stallth, .floatph]

/-- The registers that do not read 0 after reset. -/
def nonzeroResetRegs : List Reg :=
  [.id, .ctrl, .status, .pi 0 .imax, .pi 1 .imax, .ampcap, .floatph, .rmsk, .pwrscale, .tmax, .vmax,
   .imaxl, .stallth]

theorem readReg_reset_eq_zero {r : Reg} (hr : r ∉ nonzeroResetRegs) : readReg r State.reset = 0 := by
  have hall : ∀ r ∈ allRegs, r ∉ nonzeroResetRegs → readReg r State.reset = 0 := by decide +kernel
  exact hall r (mem_allRegs r) hr

/-- Settles O58: the stated values are read off the reset state, and every register outside the listed
offsets is one of those that read 0. -/
theorem resetValuesAsStated : Obligations.ResetValuesAsStated := by
  refine ⟨fun p hp => ?_, fun o halign hres hout => ?_, rfl, rfl, rfl⟩
  · have hlist : p ∈ statedResetRegs.map
        fun r => (BitVec.ofNat 10 (regOffset r), readReg r State.reset) := hp
    obtain ⟨r, -, rfl⟩ := List.mem_map.1 hlist
    exact exec_regRead_regOffset r State.reset
  · obtain ⟨r, hr⟩ := exists_regOffset_eq halign hres
    have ho : o = BitVec.ofNat 10 (regOffset r) := by rw [hr, BitVec.ofNat_toNat, BitVec.setWidth_eq]
    subst ho
    have hzero : r ∉ nonzeroResetRegs := fun hmem =>
      hout (List.mem_map_of_mem (f := fun r => BitVec.ofNat 10 (regOffset r)) hmem)
    rw [exec_regRead_regOffset, readReg_reset_eq_zero hzero]

end Sys2Proof.Machine
end
